-- ==== Sys2Proof/Word.lean ====
section
/-! DEFINITION. The two word types of the block: the 8-bit character and the 32-bit register word. -/

namespace Sys2Proof

/-- A character, `DATA_WIDTH` = 8 bits (00_scope.md R6). -/
abbrev Byte := BitVec 8

/-- A register word, `REG_WIDTH` = 32 bits (00_scope.md R6, R9). -/
abbrev Word := BitVec 32

end Sys2Proof
end

