-- ==== Sys2Proof/Syntax.lean ====
section
/-! DEFINITION. The block's instructions: the ten register transactions of the opcode table (00_scope.md R2,
30_encoding.md R62), a write with its `wdata`. -/

namespace Sys2Proof

/-- One constructor per row of the opcode table. `RD x` of the syntax of 30_encoding.md R67 is `rdX`, `WR x, v` is
`wrX v`. -/
inductive Instr where
  | rdData
  | wrData (wdata : Word)
  | rdState
  | wrState (wdata : Word)
  | rdControl
  | wrControl (wdata : Word)
  | rdIsr
  | wrIsr (wdata : Word)
  | rdBauddiv
  | wrBauddiv (wdata : Word)
  deriving DecidableEq, Repr

end Sys2Proof
end

