-- ==== Sys2Proof/WellFormed.lean ====
section
/-! DEFINITION. A bus request as the host makes it (30_encoding.md R56), the check that admits it (20_memory.md R41, R42,
R45), and the request each instruction stands for. -/

namespace Sys2Proof

/-- A bus request: `BusRead(off, n)` or `BusWrite(off, n, v)` (00_scope.md R10; fields of 30_encoding.md R56). A write
narrower than a word holds its value zero-extended. -/
structure BusReq where
  /-- `W`: false is a read, true a write. -/
  write : Bool
  /-- Byte offset from `UART_BASE`. -/
  off   : Word
  /-- Size in bytes; a natural number, so that the check is total. -/
  n     : Nat
  /-- Write data; a read ignores it. -/
  wdata : Word
  deriving DecidableEq, Repr

/-- The reasons the spec gives to `refuse(reason)`: an access R45 does not admit, a fetch from the window (R53), a
division by zero in `INIT 0` (42_driver.md R101). -/
inductive RefuseReason where
  | unadmittedAccess (off : Word) (n : Nat)
  | fetchFromDevice
  | divideByZero
  deriving DecidableEq, Repr

/-- The five register offsets (20_memory.md R39). -/
def registerOffsets : List Word := [0x00#32, 0x04#32, 0x08#32, 0x0C#32, 0x10#32]

/-- The three checks of 20_memory.md R45: the size, the alignment, the offset. -/
def BusReq.admitted (r : BusReq) : Bool :=
  r.n == 4 && r.off.toNat % 4 == 0 && registerOffsets.contains r.off

/-- The request an instruction stands for (30_encoding.md R62, R67): four bytes at its register's offset. -/
def Instr.request : Instr → BusReq
  | .rdData => ⟨false, 0x00#32, 4, 0#32⟩
  | .wrData v => ⟨true, 0x00#32, 4, v⟩
  | .rdState => ⟨false, 0x04#32, 4, 0#32⟩
  | .wrState v => ⟨true, 0x04#32, 4, v⟩
  | .rdControl => ⟨false, 0x08#32, 4, 0#32⟩
  | .wrControl v => ⟨true, 0x08#32, 4, v⟩
  | .rdIsr => ⟨false, 0x0C#32, 4, 0#32⟩
  | .wrIsr v => ⟨true, 0x0C#32, 4, v⟩
  | .rdBauddiv => ⟨false, 0x10#32, 4, 0#32⟩
  | .wrBauddiv v => ⟨true, 0x10#32, 4, v⟩

/-- An instruction is well formed when the bus admits its request. Every term of `Instr` is: its operands have the widths
of R56 by their types. -/
def Instr.wellFormed (i : Instr) : Bool := i.request.admitted

end Sys2Proof
end

