-- ==== Sys2Proof/Decode.lean ====
section
/-! DEFINITION. The decoder of 30_encoding.md R63, total on any request; the canonical 38-bit word of R57 and its encoder;
the opcode table's numbering of it. -/

namespace Sys2Proof

/-- The instruction at a register offset in a direction (the match of 30_encoding.md R63); none at any other offset. A
read ignores `wdata` (R62). -/
def decodeOffset (write : Bool) (off wdata : Word) : Option Instr :=
  if off = 0x00#32 then some (if write then .wrData wdata else .rdData)
  else if off = 0x04#32 then some (if write then .wrState wdata else .rdState)
  else if off = 0x08#32 then some (if write then .wrControl wdata else .rdControl)
  else if off = 0x0C#32 then some (if write then .wrIsr wdata else .rdIsr)
  else if off = 0x10#32 then some (if write then .wrBauddiv wdata else .rdBauddiv)
  else none

/-- `decode(W, off, n, wdata)` (30_encoding.md R63): the instruction, or the refusal by name. -/
def decode (r : BusReq) : Except RefuseReason Instr :=
  if r.n ≠ 4 ∨ r.off.toNat % 4 ≠ 0 then .error (.unadmittedAccess r.off r.n)
  else
    match decodeOffset r.write r.off r.wdata with
    | some i => .ok i
    | none => .error (.unadmittedAccess r.off r.n)

/-- The request a 38-bit word `T` names: `T[37]` is `W`, `T[36:32]` is `off[4:0]`, `T[31:0]` is `wdata`, and the size is 4
(30_encoding.md R57, R58). -/
def requestOfWord (t : BitVec 38) : BusReq where
  write := t.getLsbD 37
  off   := (t.extractLsb' 32 5).setWidth 32
  n     := 4
  wdata := t.extractLsb' 0 32

/-- Decodes a canonical word (30_encoding.md R57, R63); a selector that R62 does not list is refused (R64). -/
def decodeWord (t : BitVec 38) : Except RefuseReason Instr := decode (requestOfWord t)

/-- The six selector bits `T[37:32]` of each instruction (the table of 30_encoding.md R62). -/
def selector : Instr → BitVec 6
  | .rdData => 0b000000#6
  | .wrData _ => 0b100000#6
  | .rdState => 0b000100#6
  | .wrState _ => 0b100100#6
  | .rdControl => 0b001000#6
  | .wrControl _ => 0b101000#6
  | .rdIsr => 0b001100#6
  | .wrIsr _ => 0b101100#6
  | .rdBauddiv => 0b010000#6
  | .wrBauddiv _ => 0b110000#6

/-- `T[31:0]`: the write data, 0 for a read (30_encoding.md R57). -/
def wordOperand : Instr → Word
  | .wrData v => v
  | .wrState v => v
  | .wrControl v => v
  | .wrIsr v => v
  | .wrBauddiv v => v
  | .rdData => 0#32
  | .rdState => 0#32
  | .rdControl => 0#32
  | .rdIsr => 0#32
  | .rdBauddiv => 0#32

/-- The canonical word of an instruction (30_encoding.md R57): the selector above `wdata`. -/
def encode (i : Instr) : BitVec 38 := (selector i).setWidth 38 <<< 32 ||| (wordOperand i).setWidth 38

/-- The request that a number in the opcode table's numbering names. A number of 38 bits or fewer is the word `T` itself;
a longer one has no canonical word (R57) and stands for a request no offset admits (log entry 2). -/
def requestOfTable (nbits w : Nat) : BusReq :=
  if w % 2 ^ nbits < 2 ^ 38 then requestOfWord (BitVec.ofNat 38 (w % 2 ^ nbits))
  else { write := false, off := 0xFFFFFFFF#32, n := 4, wdata := 0#32 }

/-- The instruction the decoder reads from the low `nbits` bits of `w`, bit 0 of `w` being bit 0 of `T`. -/
def decodeTableWord (nbits w : Nat) : Option Instr := (decode (requestOfTable nbits w)).toOption

end Sys2Proof
end

