-- ==== Sys2Proof/Config.lean ====
section
/-! DEFINITION. What the platform or the implementation fixes (00_scope.md R6), and the free values of R9. A constant with
no body is OPEN in the spec: nothing in Lean can evaluate it, so a claim holds for every value of it. -/

namespace Sys2Proof

/-- Whose step comes next (00_scope.md R8): the host, the transmitter (`TX_STEP`), the receiver with the byte the line
offers (`RX_BYTE b`, 41_line_engines.md R87), or the platform's reset (70_reset_and_hazards.md R127). DESIGN CHOICE
(log entries 1 and 14). -/
inductive Turn where
  | host
  | transmitter
  | receiver (b : Byte)
  | reset
  deriving DecidableEq, Repr, Inhabited

namespace Config

/-- `REG_COUNT` (00_scope.md R6). -/
def regCount : Nat := 5

/-- `REG_STRIDE`, in bytes (00_scope.md R6). -/
def regStride : Nat := 4

/-- `PCLK_HZ`, the reference clock the divisor divides (00_scope.md R6). -/
def pclkHz : Nat := 25000000

/-- `ISR_CLEAR_ON_READ`: true is the spec's value, from the source's "clear-on-read" (00_scope.md R6; log entry 6). -/
def isrClearOnRead : Bool := true

/-- OPEN: `BAUDDIV_WIDTH` less one, so that the width is 1 to 32 (00_scope.md R6; log entry 7). -/
opaque bauddivWidthLessOne : Fin 32

/-- `BAUDDIV_WIDTH`: the stored bits of `bauddiv`, 1 to 32. -/
def bauddivWidth : Nat := bauddivWidthLessOne.val + 1

/-- OPEN: `BAUD_VALID` on a divisor other than 0 (00_scope.md R6; log entry 8). -/
opaque baudValidNonzero : Word → Bool

/-- OPEN: `UART_BASE` over 4 (00_scope.md R6, decision D5: a 32-bit address, a multiple of 4), such that the five registers
have 32-bit addresses: at most 2^30 - 5, so that the last one stands at most at 2^32 - 4 (DEDUCED, log entry 9). -/
opaque uartBaseIndex : Fin 1073741820

/-- `UART_BASE` (00_scope.md R6). -/
def uartBase : Word := BitVec.ofNat 32 (4 * uartBaseIndex.val)

/-- OPEN: how far `UART_WINDOW_BYTES` exceeds its least value 0x14 (00_scope.md R6, decision D4; log entry 9). -/
opaque uartWindowBeyondRegisters : Nat

/-- `UART_WINDOW_BYTES`, at least 0x14 (00_scope.md R6). -/
def uartWindowBytes : Nat := 0x14 + uartWindowBeyondRegisters

/-- OPEN: `UART_IRQ_ROUTING` (60_exceptions.md R117): the level the platform drives a host input to, from the levels of the
block's five outputs (bits 0 to 3 are `irq[k]`, bit 4 is `irq_any`, R116). Fan-out, polarity and the combining of outputs are
all left to it. DESIGN CHOICE (log entry 15): the host's inputs are numbered, and an input's level is a function of the
outputs' present levels alone. -/
opaque uartIrqRouting : (line : Nat) → (outputs : BitVec 5) → Bool

/-- FREE VALUE: the n-th `draw(BitVec 8)` (00_scope.md R9; log entry 3). -/
opaque freeByte : Nat → Byte

/-- FREE VALUE: the n-th `draw(BitVec 32)` (00_scope.md R9; log entry 3). -/
opaque freeWord : Nat → Word

/-- FREE VALUE: the n-th turn of the schedule where State lists none (00_scope.md R8; log entry 1). -/
opaque freeTurn : Nat → Turn

/-- OPEN, unconstrained: does the n-th transmit overflow keep the old byte? `TX_OVERRUN_KEEPS_OLD`
(40_register_access.md R72; log entry 4). -/
opaque txOverrunKeepsOld : Nat → Bool

/-- OPEN, unconstrained: does the n-th receive overflow keep the old byte? `RX_OVERRUN_KEEPS_OLD`
(41_line_engines.md R88; log entry 5). -/
opaque rxOverrunKeepsOld : Nat → Bool

/-- FREE VALUE: does the n-th reconfiguration keep the byte in flight? (41_line_engines.md R94; log entry 16). -/
opaque disturbKeeps : Nat → Bool

end Config

end Sys2Proof
end

