-- ==== Sys2Proof/Machine/State.lean ====
section
/-! DEFINITION. The state of the block (10_state.md R13) with the host's program and the schedule beside it, all plain data;
the reasons a step can stop; the state after reset (R36). -/

namespace Sys2Proof.Machine

/-- Where the host stands relative to its last status poll (10_state.md R34). -/
inductive PollStatus where
  | noPoll
  | fresh
  | stale
  deriving DecidableEq, Repr

/-- The faults the spec names. Each is RECORDED in `State.faults` and the run goes on (40_register_access.md R81), so no
step of this model ends in one: `step` never answers `Outcome.fault` (log entry 13). -/
inductive Fault where
  /-- Recorded by `afterDataAccess` when a `data` access finds the poll stale (R81, 70_reset_and_hazards.md R134). Safe: a
  claim takes `faults = []` as a premise. -/
  | hazardStaleStatus
  deriving DecidableEq, Repr

/-- The reasons `exec` can have no meaning for an instruction. The spec's own `refuse(reason)` is a mark in the state, not
one of these (00_scope.md R9, log entry 12). -/
inductive Refusal where
  /-- An instruction of the table that has no meaning yet; no arm of `exec` raises it. Safe. -/
  | notModelled (mnemonic : String)
  deriving DecidableEq, Repr

/-- The block's four interrupt sources (60_exceptions.md R114). -/
inductive IrqSource where
  | transmit
  | receive
  | transmitOverflow
  | receiveOverflow
  deriving DecidableEq, Repr

/-- What is left of the driver's work at a turn: a call of 42_driver.md, or the rest of one under way. -/
inductive DriverCall where
  /-- `INIT r` (42_driver.md R99, R101). -/
  | init (r : Nat)
  /-- The `WR control, 0x3` that ends an `INIT` (42_driver.md R100). -/
  | initControl
  /-- `PUTCHAR c` (42_driver.md R102). -/
  | putChar (c : Byte)
  /-- `GETCHAR` (42_driver.md R104). -/
  | getChar
  /-- `WAIT_TX_READY` (42_driver.md R102). -/
  | waitTxReady
  /-- `WAIT_RX_READY` (42_driver.md R104). -/
  | waitRxReady
  /-- The `WR data, c` that ends a `PUTCHAR`, and whether the call returns `c` to its caller (42_driver.md R103). -/
  | sendByte (c : Byte) (returns : Bool)
  /-- The `RD data` of a `GETCHAR` and what follows it (42_driver.md R104, R105). -/
  | receiveByte
  deriving DecidableEq, Repr

/-- What the host does on one of its turns: an access, or the driver's work, which issues accesses. -/
inductive HostOp where
  /-- `BusRead` or `BusWrite` at an offset (00_scope.md R10). -/
  | bus (r : BusReq)
  /-- `MemRead(addr, n)` or `MemWrite(addr, n, v)` at a host address (00_scope.md R10). -/
  | mem (write : Bool) (addr : Word) (n : Nat) (wdata : Word)
  /-- An instruction fetch at a host address (20_memory.md R53). -/
  | fetch (addr : Word)
  /-- The driver's procedures of 42_driver.md, on the block behind its handle (R98). -/
  | call (c : DriverCall)
  deriving DecidableEq, Repr

/-- The state. The first three groups are the record of 10_state.md R13; the last is the model's own. -/
structure State where
  /-- `control[6:0]` (R22). -/
  control : BitVec 7
  /-- The divisor, `BAUDDIV_WIDTH` bits stored, the bits above them 0 (R29; log entry 7). -/
  bauddiv : Word
  /-- `TX_BUF_FULL`, state[0] (R18). -/
  txFull  : Bool
  /-- `RX_BUF_FULL`, state[1] (R19). -/
  rxFull  : Bool
  /-- `TX_OVERFLOW`, state[2] (R20). -/
  txOvf   : Bool
  /-- `RX_OVERFLOW`, state[3] (R21). -/
  rxOvf   : Bool
  /-- `isr[3:0]` (R27). -/
  isr     : BitVec 4
  /-- Transmit buffer (R24). -/
  txByte  : Byte
  /-- Receive buffer; `none` until a byte has been received since reset (R26). -/
  rxByte  : Option Byte
  /-- The bytes put on the line, oldest first (R33). -/
  wireOut : List Byte
  /-- R34. -/
  poll    : PollStatus
  /-- R35. -/
  faults  : List Fault
  /-- R35. -/
  refused : Bool
  /-- What the last host read returned: `rdata` of 30_encoding.md R56 (log entry 11). -/
  rdata   : Word
  /-- What the driver calls returned, oldest first, each in 32 bits, a width the spec leaves open (42_driver.md R103, R105;
  DESIGN CHOICE, log entries 19 and 23). -/
  returns : List Word
  /-- The host operations still to issue, next first (20_memory.md R49; log entry 2). -/
  program : List HostOp
  /-- The turns still to come, next first; past the end the turn is free (00_scope.md R8; log entry 1). -/
  turns   : List Turn
  /-- How many draws have been made: what the free values are applied to (log entry 3). -/
  draws   : Nat
  deriving DecidableEq, Repr

/-- The state right after reset (10_state.md R36, 70_reset_and_hazards.md R127). `tx_byte`, which R36 leaves unspecified,
is 0 (DESIGN CHOICE, log entry 10); the model's own fields start empty (log entries 1, 2, 3, 11, 19). -/
def State.reset : State where
  control := 0#7
  bauddiv := 0#32
  txFull  := false
  rxFull  := false
  txOvf   := false
  rxOvf   := false
  isr     := 0#4
  txByte  := 0x00#8
  rxByte  := none
  wireOut := []
  poll    := .noPoll
  faults  := []
  refused := false
  rdata   := 0#32
  returns := []
  program := []
  turns   := []
  draws   := 0

end Sys2Proof.Machine
end

