-- ==== Sys2Proof/Machine/Flags.lean ====
section
/-! DEFINITION. The block's flags (10_state.md R37): the bit indexes (30_encoding.md R61), the words a host reads (R60), and
the interrupt sources and outputs (60_exceptions.md R114 to R117). -/

namespace Sys2Proof.Machine

/-- Index of `TX_EN` in `control` (10_state.md R22). -/
def txEnBit : Nat := 0

/-- Index of `RX_EN` in `control` (10_state.md R22). -/
def rxEnBit : Nat := 1

/-- Index of `HALF_DUPLEX_TX_TIMING` in `control` (10_state.md R22): stored and read back, no other effect (R32). -/
def halfDuplexTxTimingBit : Nat := 6

/-- Index of `TX_BUF_FULL` in `state` (10_state.md R17). -/
def txBufFullBit : Nat := 0

/-- Index of `RX_BUF_FULL` in `state` (10_state.md R17). -/
def rxBufFullBit : Nat := 1

/-- Index of `TX_OVERFLOW` in `state` (10_state.md R17). -/
def txOverflowBit : Nat := 2

/-- Index of `RX_OVERFLOW` in `state` (10_state.md R17). -/
def rxOverflowBit : Nat := 3

/-- The mask of the field with a given index: `1 << i` (30_encoding.md R61). -/
def fieldMask (index : Nat) : Word := 1#32 <<< index

/-- `TX_EN`: the transmitter may take bytes (10_state.md R22, R23). -/
def txEnabled (s : State) : Bool := s.control.getLsbD txEnBit

/-- `RX_EN`: the receiver accepts bytes (10_state.md R22, R23). -/
def rxEnabled (s : State) : Bool := s.control.getLsbD rxEnBit

/-- `zext_32(b)`, the word a `data` read returns (30_encoding.md R60). -/
def dataWord (b : Byte) : Word := b.setWidth 32

/-- `zext_32` of `rx_ovf, tx_ovf, rx_full, tx_full`, bit 0 last: the `state` view (10_state.md R17, 30_encoding.md R60). -/
def stateWord (s : State) : Word :=
  (BitVec.ofBool s.rxOvf ++ BitVec.ofBool s.txOvf ++ BitVec.ofBool s.rxFull ++ BitVec.ofBool s.txFull).setWidth 32

/-- `zext_32(control)` (10_state.md R22, 30_encoding.md R60). -/
def controlWord (s : State) : Word := s.control.setWidth 32

/-- `zext_32(isr)` (10_state.md R27, 30_encoding.md R60). -/
def isrWord (s : State) : Word := s.isr.setWidth 32

/-- The `isr` bit of a source (60_exceptions.md R114). -/
def irqStatusBit : IrqSource → Nat
  | .transmit => 0
  | .receive => 1
  | .transmitOverflow => 2
  | .receiveOverflow => 3

/-- The `control` bit that enables a source (60_exceptions.md R114). -/
def irqEnableBit : IrqSource → Nat
  | .transmit => 2
  | .receive => 3
  | .transmitOverflow => 4
  | .receiveOverflow => 5

/-- The event of a source: its `isr` bit is set when its enable is 1 (10_state.md R28). -/
def raiseIrq (k : IrqSource) (s : State) : State :=
  { s with
    isr := bif s.control.getLsbD (irqEnableBit k) then s.isr ||| (1#4 <<< irqStatusBit k) else s.isr }

/-- `irq[k] = isr[k]`, the level output of a source (60_exceptions.md R116; log entry 15). -/
def irqOutput (s : State) (k : IrqSource) : Bool := s.isr.getLsbD (irqStatusBit k)

/-- `irq_any`, the combined output (60_exceptions.md R116; log entry 15). -/
def irqAny (s : State) : Bool :=
  irqOutput s .transmit || irqOutput s .receive || irqOutput s .transmitOverflow || irqOutput s .receiveOverflow

/-- The levels of the block's five outputs: bits 0 to 3 are `irq[k]`, bit 4 is `irq_any` (60_exceptions.md R116). -/
def outputLevels (s : State) : BitVec 5 := BitVec.ofBool (irqAny s) ++ s.isr

/-- The level at the host's interrupt input of that number (60_exceptions.md R117, routing OPEN; log entry 15). -/
def hostIrqLine (s : State) (line : Nat) : Bool := Config.uartIrqRouting line (outputLevels s)

end Sys2Proof.Machine
end

