-- ==== Sys2Proof/Machine/Operands.lean ====
section
/-! DEFINITION. How a write uses `wdata` (30_encoding.md R59), the divisor, and how a host address becomes an offset
(00_scope.md R10). -/

namespace Sys2Proof.Machine

/-- The character of a `data` write: `wdata[7:0]` (20_memory.md R43, 30_encoding.md R59). -/
def dataBits (wdata : Word) : Byte := wdata.extractLsb' 0 8

/-- The seven bits a `control` write stores: `wdata[6:0]` (30_encoding.md R59). -/
def controlBits (wdata : Word) : BitVec 7 := wdata.extractLsb' 0 7

/-- `wdata[width-1:0]`, zero-extended back to a word. -/
def lowBits (width : Nat) (wdata : Word) : Word := (wdata.setWidth width).setWidth 32

/-- The divisor a `bauddiv` write stores: `wdata[BAUDDIV_WIDTH-1:0]` (10_state.md R29, 30_encoding.md R59). -/
def divisorBits (wdata : Word) : Word := lowBits Config.bauddivWidth wdata

/-- `BAUD_VALID` (10_state.md R30): OPEN, but for 0, which is not valid (decision D9). -/
def baudValid (divisor : Word) : Bool := divisor != 0#32 && Config.baudValidNonzero divisor

/-- `floor(25000000 / r)`, the divisor `INIT r` computes for r at least 1 (42_driver.md R99, R109). -/
def divisorFor (r : Nat) : Nat := Config.pclkHz / r

/-- The offset of a host address in the block's window, none outside it (00_scope.md R10, 20_memory.md R38). -/
def busOffset (addr : Word) : Option Word :=
  if Config.uartBase.toNat ≤ addr.toNat ∧ addr.toNat < Config.uartBase.toNat + Config.uartWindowBytes then
    some (addr - Config.uartBase)
  else none

end Sys2Proof.Machine
end

