-- ==== Sys2Proof/Machine/Ops.lean ====
section
/-! DEFINITION. The operations the transactions and the engines share: the returned word, the poll bookkeeping and its fault
(40_register_access.md R81), the refusal mark (00_scope.md R9), the frame in flight (41_line_engines.md R94), draws, and the
platform's reset (70_reset_and_hazards.md R127). The block takes no exception and returns from none (60_exceptions.md R112). -/

namespace Sys2Proof.Machine

/-- A read returns `v` to the host (30_encoding.md R56). -/
def returnWord (v : Word) (s : State) : State := { s with rdata := v }

/-- One more draw has been made (00_scope.md R9; log entry 3). -/
def countDraw (s : State) : State := { s with draws := s.draws + 1 }

/-- `poll_update(RD_STATE)` (40_register_access.md R81). -/
def afterPoll (s : State) : State := { s with poll := .fresh }

/-- What a register write makes of the poll status (40_register_access.md R81). -/
def PollStatus.afterWrite : PollStatus → PollStatus
  | .noPoll => .noPoll
  | .fresh => .stale
  | .stale => .stale

/-- `poll_update` of `WR_CONTROL`, `WR_STATE`, `WR_ISR`, `WR_BAUDDIV` (40_register_access.md R81). -/
def afterRegisterWrite (s : State) : State := { s with poll := s.poll.afterWrite }

/-- The fault a data access records for the poll status it finds (40_register_access.md R81,
70_reset_and_hazards.md R134). -/
def hazardOf : PollStatus → List Fault
  | .noPoll => []
  | .fresh => []
  | .stale => [.hazardStaleStatus]

/-- `poll_update` of `RD_DATA` and `WR_DATA` (40_register_access.md R81): the hazard is recorded when the poll is stale (a
recorded fault is never cleared, 00_scope.md R9), and the poll is used up. No data access changes `poll` before this, so the
check sees the state before the step. -/
def afterDataAccess (s : State) : State := { s with faults := s.faults ++ hazardOf s.poll, poll := .noPoll }

/-- `refuse(reason)`: marks the state and changes nothing else (00_scope.md R9, 20_memory.md R45; log entry 12). -/
def refuse (_reason : RefuseReason) (s : State) : State := { s with refused := true }

/-- The list with its last byte, if there is one, replaced. -/
def replaceLast (b : Byte) : List Byte → List Byte
  | [] => []
  | [_] => [b]
  | x :: y :: rest => x :: replaceLast b (y :: rest)

/-- `in_flight_disturb()` (41_line_engines.md R94), called when `disturbs` holds: the last byte on the wire is kept or
becomes a draw. -/
def disturbWhen (disturbs : Bool) (s : State) : State :=
  { s with
    wireOut :=
      bif disturbs && !Config.disturbKeeps s.draws then replaceLast (Config.freeByte s.draws) s.wireOut
      else s.wireOut
    draws := bif disturbs then s.draws + 1 else s.draws }

/-- The platform's reset at any later time (70_reset_and_hazards.md R127): every field of the record of 10_state.md R13
takes its value of R36, `tx_byte` a draw. What is the host's or the environment's stays (log entry 14). -/
def platformReset (s : State) : State :=
  { State.reset with
    txByte  := Config.freeByte s.draws
    rdata   := s.rdata
    returns := s.returns
    program := s.program
    turns   := s.turns
    draws   := s.draws + 1 }

/-- Puts operations at the front of the host's program. -/
def pushOps (ops : List HostOp) (s : State) : State := { s with program := ops ++ s.program }

/-- A driver call returns a byte to its caller, zero-extended (42_driver.md R103, R105). DESIGN CHOICE (log entry 23): to 32
bits. The spec says only "widened to the stream API's integer return convention" and gives no width. -/
def returnByte (b : Byte) (s : State) : State := { s with returns := s.returns ++ [b.setWidth 32] }

/-- The state with a bus request as the host's next operation and the next turn the host's (log entry 2). -/
def placeRequest (r : BusReq) (s : State) : State :=
  { s with turns := .host :: s.turns, program := .bus r :: s.program }

end Sys2Proof.Machine
end

