-- ==== Sys2Proof/Machine/Registers.lean ====
section
/-! DEFINITION. The meanings of the ten register transactions (40_register_access.md R71 to R80). Each completes in every
state (60_exceptions.md R113), in one atomic step (00_scope.md R11). -/

namespace Sys2Proof.Machine

open Sys2Proof

/-- The byte a `data` read finds: the last received byte, or a draw when none was received since reset
(40_register_access.md R71). -/
def receivedByte (s : State) : Byte :=
  match s.rxByte with
  | some b => b
  | none => Config.freeByte s.draws

/-- Consumes the received byte, counting the draw of `receivedByte` where it makes one. -/
def consumeByte (s : State) : State :=
  { s with rxFull := false, draws := bif s.rxByte.isNone then s.draws + 1 else s.draws }

/-- `RD data` (40_register_access.md R71): returns the byte and consumes it. -/
def execRdData (s : State) : Host.Outcome State Fault Refusal :=
  .next (afterDataAccess (consumeByte (returnWord (dataWord (receivedByte s)) s)))

/-- A byte written into the empty transmit buffer (40_register_access.md R72). -/
def acceptByte (c : Byte) (s : State) : State := { s with txByte := c, txFull := true }

/-- A byte written while the transmit buffer is full (40_register_access.md R72): which byte stays is OPEN
(log entry 4). -/
def overrunByte (c : Byte) (s : State) : State :=
  raiseIrq .transmitOverflow
    (countDraw
      { s with
        txOvf := true
        txByte := bif Config.txOverrunKeepsOld s.draws then s.txByte else c })

/-- `WR data, v` (40_register_access.md R72). -/
def execWrData (wdata : Word) (s : State) : Host.Outcome State Fault Refusal :=
  .next
    (afterDataAccess
      (if s.txFull = true then overrunByte (dataBits wdata) s else acceptByte (dataBits wdata) s))

/-- `RD state`, a poll (40_register_access.md R73). -/
def execRdState (s : State) : Host.Outcome State Fault Refusal :=
  .next (afterPoll (returnWord (stateWord s) s))

/-- `WR state, v` (40_register_access.md R74): read-only, so only the poll bookkeeping. -/
def execWrState (_wdata : Word) (s : State) : Host.Outcome State Fault Refusal :=
  .next (afterRegisterWrite s)

/-- `RD control` (40_register_access.md R75). -/
def execRdControl (s : State) : Host.Outcome State Fault Refusal :=
  .next (returnWord (controlWord s) s)

/-- Stores the seven control bits (10_state.md R22). -/
def storeControl (bits : BitVec 7) (s : State) : State := { s with control := bits }

/-- Does a `control` write take `TX_EN` from 1 to 0? (41_line_engines.md R94) -/
def clearsTxEn (wdata : Word) (s : State) : Bool := txEnabled s && !wdata.getLsbD txEnBit

/-- `WR control, v` (40_register_access.md R76): taking `TX_EN` from 1 to 0 may disturb the frame in flight. -/
def execWrControl (wdata : Word) (s : State) : Host.Outcome State Fault Refusal :=
  .next (afterRegisterWrite (storeControl (controlBits wdata) (disturbWhen (clearsTxEn wdata s) s)))

/-- Clears all four `isr` bits when `ISR_CLEAR_ON_READ` holds (40_register_access.md R77). -/
def clearIsrOnRead (s : State) : State := { s with isr := bif Config.isrClearOnRead then 0#4 else s.isr }

/-- `RD isr` (40_register_access.md R77): returns the bits and clears them. -/
def execRdIsr (s : State) : Host.Outcome State Fault Refusal :=
  .next (clearIsrOnRead (returnWord (isrWord s) s))

/-- `WR isr, v` (40_register_access.md R78): read-only, so only the poll bookkeeping. -/
def execWrIsr (_wdata : Word) (s : State) : Host.Outcome State Fault Refusal :=
  .next (afterRegisterWrite s)

/-- `RD bauddiv` (40_register_access.md R79): write-only, so the value returned is a draw. -/
def execRdBauddiv (s : State) : Host.Outcome State Fault Refusal :=
  .next (countDraw (returnWord (Config.freeWord s.draws) s))

/-- Stores the divisor (10_state.md R29). -/
def storeDivisor (divisor : Word) (s : State) : State := { s with bauddiv := divisor }

/-- Does a `bauddiv` write change the stored divisor? (41_line_engines.md R94) -/
def changesDivisor (wdata : Word) (s : State) : Bool := divisorBits wdata != s.bauddiv

/-- `WR bauddiv, v` (40_register_access.md R80): a change of the stored divisor may disturb the frame in flight. The value is
not checked. -/
def execWrBauddiv (wdata : Word) (s : State) : Host.Outcome State Fault Refusal :=
  .next (afterRegisterWrite (storeDivisor (divisorBits wdata) (disturbWhen (changesDivisor wdata s) s)))

end Sys2Proof.Machine
end

