-- ==== Sys2Proof/Machine/Dispatch.lean ====
section
/-! DEFINITION. exec: one arm per instruction. -/

namespace Sys2Proof.Machine

open Sys2Proof

def exec (i : Instr) (s : State) : Host.Outcome State Fault Refusal :=
  match i with
  | .rdData => Sys2Proof.Machine.execRdData s
  | .wrData wdata => Sys2Proof.Machine.execWrData wdata s
  | .rdState => Sys2Proof.Machine.execRdState s
  | .wrState wdata => Sys2Proof.Machine.execWrState wdata s
  | .rdControl => Sys2Proof.Machine.execRdControl s
  | .wrControl wdata => Sys2Proof.Machine.execWrControl wdata s
  | .rdIsr => Sys2Proof.Machine.execRdIsr s
  | .wrIsr wdata => Sys2Proof.Machine.execWrIsr wdata s
  | .rdBauddiv => Sys2Proof.Machine.execRdBauddiv s
  | .wrBauddiv wdata => Sys2Proof.Machine.execWrBauddiv wdata s

end Sys2Proof.Machine
end

