-- ==== Sys2Proof/Machine/Driver.lean ====
section
/-! DEFINITION. The driver of 42_driver.md, parametric in the block it drives (R98): a call makes one register access of its
handle a turn, and says what is left of it. -/

namespace Sys2Proof.Machine

open Sys2Proof

/-- The handle a driver holds (42_driver.md R98): where the block stands, one word read and one word write at an address, and
the word the last read returned. Any block can be put behind it, a simulated one too; `σ` is that block's own state. -/
structure RegisterBlock (σ φ ρ : Type) where
  /-- The address of the block. -/
  base  : Word
  /-- A volatile read of the word at an address (20_memory.md R48). -/
  read  : (addr : Word) → σ → Host.Outcome σ φ ρ
  /-- A volatile write of the word at an address (20_memory.md R48). -/
  write : (addr : Word) → (v : Word) → σ → Host.Outcome σ φ ρ
  /-- What the last read returned. -/
  rdata : σ → Word

/-- What a turn leaves of a driver call: the calls still to make, the byte returned to the caller, the refusal of a call that
makes no access. -/
structure CallRest where
  left     : List DriverCall
  returned : Option Byte
  refusal  : Option RefuseReason
  deriving DecidableEq, Repr

/-- The call goes on with these. -/
def CallRest.continues (left : List DriverCall) : CallRest := { left := left, returned := none, refusal := none }

/-- The call has ended, with the byte it returns if it returns one. -/
def CallRest.ends (returned : Option Byte) : CallRest := { left := [], returned := returned, refusal := none }

/-- The call has ended in a refusal. -/
def CallRest.refuses (e : RefuseReason) : CallRest := { left := [], returned := none, refusal := some e }

variable {σ φ ρ : Type}

/-- After an access that answered a next state, what is left of the call; the other outcomes pass. -/
def thenLeave (o : Host.Outcome σ φ ρ) (rest : σ → CallRest) : Host.Outcome (σ × CallRest) φ ρ :=
  match o with
  | .next s => .next (s, rest s)
  | .fault r => .fault r
  | .refused r => .refused r

/-- `INIT r` (42_driver.md R99, R101): the divisor write, the control write being left; `INIT 0` is refused. -/
def driverInit (block : RegisterBlock σ φ ρ) (r : Nat) (s : σ) : Host.Outcome (σ × CallRest) φ ρ :=
  if r = 0 then .next (s, .refuses .divideByZero)
  else
    thenLeave (block.write (block.base + 0x10#32) (BitVec.ofNat 32 (divisorFor r)) s) fun _ => .continues [.initControl]

/-- The control write that ends an `INIT` (42_driver.md R100): exactly `TX_EN` and `RX_EN`. -/
def driverInitControl (block : RegisterBlock σ φ ρ) (s : σ) : Host.Outcome (σ × CallRest) φ ρ :=
  thenLeave (block.write (block.base + 0x08#32) 0x3#32 s) fun _ => .ends none

/-- One turn of `WAIT_TX_READY` (42_driver.md R102) before `next`: a read of `state`, and again while bit 0 is set. -/
def pollTxReady (block : RegisterBlock σ φ ρ) (next : List DriverCall) (s : σ) : Host.Outcome (σ × CallRest) φ ρ :=
  thenLeave (block.read (block.base + 0x04#32) s) fun t =>
    .continues (if (block.rdata t).getLsbD txBufFullBit = true then .waitTxReady :: next else next)

/-- One turn of `WAIT_RX_READY` (42_driver.md R104) before `next`: a read of `state`, and again while bit 1 is clear. -/
def pollRxReady (block : RegisterBlock σ φ ρ) (next : List DriverCall) (s : σ) : Host.Outcome (σ × CallRest) φ ρ :=
  thenLeave (block.read (block.base + 0x04#32) s) fun t =>
    .continues (if (block.rdata t).getLsbD rxBufFullBit = true then next else .waitRxReady :: next)

/-- What `PUTCHAR c` does after its first `WAIT_TX_READY` (42_driver.md R102): a line-feed is preceded by a whole
`PUTCHAR 0x0D`, whose return value is dropped (R103). -/
def afterFirstWait (c : Byte) : List DriverCall :=
  if c = 0x0A#8 then [.sendByte 0x0D#8 false, .waitTxReady, .sendByte c true] else [.sendByte c true]

/-- The write of `data` that ends a `PUTCHAR`, and its return (42_driver.md R102, R103). -/
def driverSendByte (block : RegisterBlock σ φ ρ) (c : Byte) (returns : Bool) (s : σ) :
    Host.Outcome (σ × CallRest) φ ρ :=
  thenLeave (block.write block.base (c.setWidth 32) s) fun _ => .ends (if returns = true then some c else none)

/-- The translation of `GETCHAR`: a carriage-return becomes a line-feed (42_driver.md R105). -/
def carriageReturnToLineFeed (b : Byte) : Byte := if b = 0x0D#8 then 0x0A#8 else b

/-- The read of `data` of a `GETCHAR`, the echo of the translated byte being left (42_driver.md R104, R105). The echoing
`PUTCHAR` returns the byte that the `GETCHAR` returns, so its return is the call's. -/
def driverReceiveByte (block : RegisterBlock σ φ ρ) (s : σ) : Host.Outcome (σ × CallRest) φ ρ :=
  thenLeave (block.read block.base s) fun t =>
    .continues [.putChar (carriageReturnToLineFeed (dataBits (block.rdata t)))]

/-- One turn of a driver call on the block behind the handle (42_driver.md R98 to R105): one register access, but for
`INIT 0`, which makes none. -/
def driverTurn (block : RegisterBlock σ φ ρ) : DriverCall → σ → Host.Outcome (σ × CallRest) φ ρ
  | .init r, s => driverInit block r s
  | .initControl, s => driverInitControl block s
  | .putChar c, s => pollTxReady block (afterFirstWait c) s
  | .getChar, s => pollRxReady block [.receiveByte] s
  | .waitTxReady, s => pollTxReady block [] s
  | .waitRxReady, s => pollRxReady block [] s
  | .sendByte c returns, s => driverSendByte block c returns s
  | .receiveByte, s => driverReceiveByte block s

/-- What a run of the driver leaves: the block, the calls still to make, the bytes returned, oldest first, and whether a call
was refused. -/
structure DriverOutcome (σ : Type) where
  block    : σ
  left     : List DriverCall
  returned : List Byte
  refused  : Bool
  deriving DecidableEq, Repr

/-- What a turn of the driver left comes before what the turns after it leave: its byte, and its refusal. -/
def DriverOutcome.after (rest : CallRest) (o : DriverOutcome σ) : DriverOutcome σ :=
  { o with returned := rest.returned.toList ++ o.returned, refused := rest.refusal.isSome || o.refused }

/-- At most so many turns of the driver with nothing between them, on any block. DESIGN CHOICE (log entry 24): a block put
behind the handle has no refusal mark of its own, so the refusal of `INIT 0` (42_driver.md R101) shows in the outcome of the
run, and the calls after it are made. -/
def driverRun (block : RegisterBlock σ φ ρ) :
    Nat → List DriverCall → σ → Host.Outcome (DriverOutcome σ) φ ρ
  | 0, calls, s => .next { block := s, left := calls, returned := [], refused := false }
  | _ + 1, [], s => .next { block := s, left := [], returned := [], refused := false }
  | n + 1, c :: calls, s =>
    match driverTurn block c s with
    | .next (t, rest) =>
      match driverRun block n (rest.left ++ calls) t with
      | .next o => .next (o.after rest)
      | .fault r => .fault r
      | .refused r => .refused r
    | .fault r => .fault r
    | .refused r => .refused r

end Sys2Proof.Machine
end

