-- ==== Sys2Proof/Machine/Engines.lean ====
section
/-! DEFINITION. The block's own steps: the transmitter's `TX_STEP` and the receiver's `RX_BYTE b` (41_line_engines.md R85 to
R92). -/

namespace Sys2Proof.Machine

open Sys2Proof

/-- `TX_STEP` is enabled exactly when `TX_EN` is 1 and the transmit buffer is full (41_line_engines.md R85). -/
def txStepEnabled (s : State) : Bool := txEnabled s && s.txFull

/-- The byte a move over the line yields: the byte itself under a valid divisor, else a draw (41_line_engines.md R92). -/
def lineByte (b : Byte) (s : State) : Byte :=
  bif baudValid s.bauddiv then b else Config.freeByte s.draws

/-- The transmitter's turn (41_line_engines.md R86): `TX_STEP` where it is enabled, else nothing (log entry 17). -/
def txStep (s : State) : State :=
  if txStepEnabled s = true then
    raiseIrq .transmit (countDraw { s with wireOut := s.wireOut ++ [lineByte s.txByte s], txFull := false })
  else s

/-- A byte stored into the empty receive buffer (41_line_engines.md R88). -/
def storeReceived (b : Byte) (s : State) : State :=
  raiseIrq .receive (countDraw { s with rxByte := some (lineByte b s), rxFull := true })

/-- A byte that arrives while the receive buffer is full (41_line_engines.md R88): which byte stays is OPEN
(log entry 5). -/
def overrunReceived (b : Byte) (s : State) : State :=
  raiseIrq .receiveOverflow
    (countDraw
      { s with
        rxOvf := true
        rxByte := bif Config.rxOverrunKeepsOld s.draws then s.rxByte else some (lineByte b s) })

/-- The receiver's turn, `RX_BYTE b` (41_line_engines.md R88); with `RX_EN` 0 the byte is lost (R89). -/
def rxStep (b : Byte) (s : State) : State :=
  if rxEnabled s = true then
    if s.rxFull = true then overrunReceived b s else storeReceived b s
  else s

end Sys2Proof.Machine
end

