-- ==== Sys2Proof/Machine/Agents.lean ====
section
/-! DEFINITION. What each turn does: the host's next operation (an access, or the driver's work on the handle to the block),
the transmitter's and the receiver's step, the platform's reset. -/

namespace Sys2Proof.Machine

open Sys2Proof

/-- A bus request: the instruction it decodes to, or the refusal mark (30_encoding.md R63, 20_memory.md R45). -/
def busAccess (r : BusReq) (s : State) : Host.Outcome State Fault Refusal :=
  match decode r with
  | .ok i => exec i s
  | .error e => .next (refuse e s)

/-- A host access at an address: a bus request inside the window, not the block's business outside it (00_scope.md R10,
log entry 9). -/
def memAccess (write : Bool) (addr : Word) (n : Nat) (wdata : Word) (s : State) : Host.Outcome State Fault Refusal :=
  match busOffset addr with
  | some off => busAccess { write := write, off := off, n := n, wdata := wdata } s
  | none => .next s

/-- An instruction fetch: refused inside the window (20_memory.md R53), not the block's business outside it. -/
def fetchAccess (addr : Word) (s : State) : Host.Outcome State Fault Refusal :=
  match busOffset addr with
  | some _ => .next (refuse .fetchFromDevice s)
  | none => .next s

/-- The driver's handle to the block, at `UART_BASE` (42_driver.md R98): each register access is a word access of the host at
its address (00_scope.md R10, 20_memory.md R48). -/
def uartHandle : RegisterBlock State Fault Refusal where
  base  := Config.uartBase
  read  := fun addr s => memAccess false addr 4 0#32 s
  write := fun addr v s => memAccess true addr 4 v s
  rdata := State.rdata

/-- The host's side after a turn of the driver: a refusal is marked, a returned byte recorded, and what is left of the call
comes next in the program. -/
def applyRest (rest : CallRest) (s : State) : State :=
  let marked := match rest.refusal with
    | some e => refuse e s
    | none => s
  let returned := match rest.returned with
    | some b => returnByte b marked
    | none => marked
  pushOps (rest.left.map .call) returned

/-- A turn of the driver on a block that shares the host's state. -/
def callTurn (block : RegisterBlock State Fault Refusal) (c : DriverCall) (s : State) :
    Host.Outcome State Fault Refusal :=
  match driverTurn block c s with
  | .next (t, rest) => .next (applyRest rest t)
  | .fault r => .fault r
  | .refused r => .refused r

/-- One operation of the host's program, taken off its front already. -/
def runHostOp : HostOp → State → Host.Outcome State Fault Refusal
  | .bus r, s => busAccess r s
  | .mem write addr n wdata, s => memAccess write addr n wdata s
  | .fetch addr, s => fetchAccess addr s
  | .call c, s => callTurn uartHandle c s

/-- The host's turn: its next operation; nothing when its program has ended (70_reset_and_hazards.md R138,
log entry 17). -/
def hostTurn (s : State) : Host.Outcome State Fault Refusal :=
  match s.program with
  | [] => .next s
  | op :: rest => runHostOp op { s with program := rest }

/-- Whose turn it is: the first listed one, or a free value where none is listed (00_scope.md R8, log entry 1). -/
def nextTurn (s : State) : Turn :=
  match s.turns with
  | t :: _ => t
  | [] => Config.freeTurn s.draws

/-- The state once the turn has been taken off the schedule. -/
def turnTaken (s : State) : State :=
  match s.turns with
  | _ :: rest => { s with turns := rest }
  | [] => countDraw s

/-- What a turn does. -/
def runTurn : Turn → State → Host.Outcome State Fault Refusal
  | .host, s => hostTurn s
  | .transmitter, s => .next (txStep s)
  | .receiver b, s => .next (rxStep b s)
  | .reset, s => .next (platformReset s)

end Sys2Proof.Machine
end

