-- ==== Sys2Proof/Machine/Step.lean ====
section
/-! DEFINITION. One step of the machine: one step of one agent (00_scope.md R8), or a reset of the platform. -/

namespace Sys2Proof.Machine

open Sys2Proof

/-- One step: the turn that comes next is taken off the schedule and run (00_scope.md R8, R11). -/
def step (s : State) : Host.Outcome State Fault Refusal := runTurn (nextTurn s) (turnTaken s)

/-- The state with the transaction of the opcode table's numbering as the host's next operation, on the host's turn
(log entry 2). -/
def State.withFetchWord (s : State) (nbits w : Nat) : State := placeRequest (requestOfTable nbits w) s

end Sys2Proof.Machine
end

