-- ==== Sys2Proof/Safety.lean ====
section
/-! DEFINITION. What claims speak of: a clean run (70_reset_and_hazards.md R138), runs and the transmitter's fairness
(41_line_engines.md R91), the block's invariant, the transmit queue, frames, the host programs the driver makes, and a
simulated block for it to drive (42_driver.md). -/

namespace Sys2Proof.Machine

open Sys2Proof

/-- The premises of every claim about a run: neither refused nor faulty at its end (40_register_access.md R83,
70_reset_and_hazards.md R138). -/
def Clean (s : State) : Prop := s.refused = false ∧ s.faults = []

/-- An infinite run: each state is the next state of the one before. -/
def IsRun (run : Nat → State) : Prop := ∀ n, step (run n) = .next (run (n + 1))

/-- The states in which `TX_STEP` is owed progress: enabled, with a valid divisor (41_line_engines.md R91). -/
def TransmitterOwed (s : State) : Prop :=
  s.control.getLsbD 0 = true ∧ s.txFull = true ∧ baudValid s.bauddiv = true

/-- Weak fairness of `TX_STEP` (41_line_engines.md R91): owed from some point on, it fires after that point. A premise,
never part of `step` (log entry 18). -/
def WeaklyFair (run : Nat → State) : Prop :=
  ∀ n, (∀ m, n ≤ m → TransmitterOwed (run m)) → ∃ m, n ≤ m ∧ nextTurn (run m) = .transmitter

/-- A full receive buffer holds a byte that was received (10_state.md R26). -/
def ReceiveSound (s : State) : Prop := s.rxFull = true → s.rxByte ≠ none

/-- The stored divisor has no bit at or above `BAUDDIV_WIDTH` (10_state.md R29). -/
def DivisorFits (s : State) : Prop := ∀ k, Config.bauddivWidth ≤ k → s.bauddiv.getLsbD k = false

/-- The block's invariant. -/
def BlockInvariant (s : State) : Prop := ReceiveSound s ∧ DivisorFits s

/-- The bytes sent, then the one buffered if there is one (41_line_engines.md R90). -/
def sentOrBuffered (s : State) : List Byte := s.wireOut ++ (if s.txFull = true then [s.txByte] else [])

/-- The transmit side is the same: buffer, flag, overflow bit, wire. -/
def SameTransmitSide (s t : State) : Prop :=
  t.txFull = s.txFull ∧ t.txByte = s.txByte ∧ t.txOvf = s.txOvf ∧ t.wireOut = s.wireOut

/-- The receive side is the same: buffer, flag, overflow bit. -/
def SameReceiveSide (s t : State) : Prop := t.rxFull = s.rxFull ∧ t.rxByte = s.rxByte ∧ t.rxOvf = s.rxOvf

/-- The two registers a host sets are the same. -/
def SameSettings (s t : State) : Prop := t.control = s.control ∧ t.bauddiv = s.bauddiv

/-- The host's program, the schedule and the driver's returns are the same. -/
def SameHostSide (s t : State) : Prop :=
  t.program = s.program ∧ t.turns = s.turns ∧ t.returns = s.returns

/-- The record of 10_state.md R13 is the same. -/
def SameRecord (s t : State) : Prop :=
  SameSettings s t ∧ SameTransmitSide s t ∧ SameReceiveSide s t ∧ t.isr = s.isr ∧ t.poll = s.poll ∧ t.faults = s.faults ∧
    t.refused = s.refused

/-- All but the host's side is the same. -/
def SameBlock (s t : State) : Prop := SameRecord s t ∧ t.rdata = s.rdata ∧ t.draws = s.draws

/-- The wire is kept where `keeps` says so, and else its last byte, if there is one, is replaced by `b`
(41_line_engines.md R94). -/
def KeptOrLastReplaced (keeps : Bool) (b : Byte) (before after : List Byte) : Prop :=
  (keeps = true → after = before) ∧
    (keeps = false →
      (before = [] ∧ after = []) ∨ ∃ earlier last, before = earlier ++ [last] ∧ after = earlier ++ [b])

/-- The transaction a turn of a driver call issues, none for `INIT 0` (42_driver.md R99 to R105, R110). -/
def callTransaction : DriverCall → Option Instr
  | .init r => if r = 0 then none else some (.wrBauddiv (BitVec.ofNat 32 (divisorFor r)))
  | .initControl => some (.wrControl 0x3#32)
  | .putChar _ => some .rdState
  | .getChar => some .rdState
  | .waitTxReady => some .rdState
  | .waitRxReady => some .rdState
  | .sendByte c _ => some (.wrData (c.setWidth 32))
  | .receiveByte => some .rdData

/-- The transaction a host operation issues on its turn, none where it issues none (00_scope.md R8). -/
def transactionOf : HostOp → Option Instr
  | .bus r => (decode r).toOption
  | .mem write addr n wdata =>
    match busOffset addr with
    | some off => (decode { write := write, off := off, n := n, wdata := wdata }).toOption
    | none => none
  | .fetch _ => none
  | .call c => callTransaction c

/-- The transaction of the step from `s`: the one its host operation issues when the host moves. -/
def stepTransaction (s : State) : Option Instr :=
  match nextTurn s with
  | .host => s.program.head?.bind transactionOf
  | .transmitter => none
  | .receiver _ => none
  | .reset => none

/-- A host program made of driver calls and of what is left of one under way (42_driver.md R99 to R105, R110): a data access
comes right after a wait, or first where `polled` says the poll still counts. -/
def driverOps : Bool → List HostOp → Bool
  | _, [] => true
  | _, .bus _ :: _ => false
  | _, .mem _ _ _ _ :: _ => false
  | _, .fetch _ :: _ => false
  | _, .call (.init _) :: rest => driverOps false rest
  | _, .call .initControl :: rest => driverOps false rest
  | _, .call (.putChar _) :: rest => driverOps false rest
  | _, .call .getChar :: rest => driverOps false rest
  | _, .call .waitTxReady :: rest => driverOps true rest
  | _, .call .waitRxReady :: rest => driverOps true rest
  | polled, .call (.sendByte _ _) :: rest => polled && driverOps false rest
  | polled, .call .receiveByte :: rest => polled && driverOps false rest

/-- A driver program that has recorded no fault and will not (42_driver.md R111). -/
def DriverHazardFree (s : State) : Prop :=
  s.faults = [] ∧ driverOps (s.poll != .stale) s.program = true

/-- A driver program with every interrupt enable and every `isr` bit 0 (60_exceptions.md R122). -/
def DriverInterruptsOff (s : State) : Prop :=
  driverOps true s.program = true ∧ s.isr = 0#4 ∧ ∀ k, 2 ≤ k → k ≤ 5 → s.control.getLsbD k = false

/-- A simulated block to put behind the handle (the fixture of 90_conflicts.md C2): it records the words written to `data`,
and its status reads 0 at once, as if each write cleared it. -/
def recordingBlock (base : Word) : RegisterBlock (List Word) Fault Refusal where
  base  := base
  read  := fun _ log => .next log
  write := fun addr v log => .next (if addr = base then log ++ [v] else log)
  rdata := fun _ => 0#32

end Sys2Proof.Machine
end

