-- ==== Sys2Proof/Certificates/Slice0/Obligations.lean ====
section
/-! DEFINITION. The statements about the model, one definition each. -/

open Sys2Proof Sys2Proof.Machine

/-! Encoding. -/

/-- Words written out from the table of 30_encoding.md R62 and from 95_test_vectors.md, a read with its ignored bits set, and
two selectors that R64 refuses. -/
def Obligations.TransactionWordsDecode : Prop :=
  decodeWord 0x0000000000#38 = .ok .rdData ∧
  decodeWord 0x2000000041#38 = .ok (.wrData 0x41#32) ∧
  decodeWord 0x0400000000#38 = .ok .rdState ∧
  decodeWord 0x240000000F#38 = .ok (.wrState 0xF#32) ∧
  decodeWord 0x0800000000#38 = .ok .rdControl ∧
  decodeWord 0x2800000003#38 = .ok (.wrControl 0x3#32) ∧
  decodeWord 0x0C00000000#38 = .ok .rdIsr ∧
  decodeWord 0x2C00000001#38 = .ok (.wrIsr 0x1#32) ∧
  decodeWord 0x1000000000#38 = .ok .rdBauddiv ∧
  decodeWord 0x30000000D9#38 = .ok (.wrBauddiv 217#32) ∧
  decodeWord 0x04FFFF0001#38 = .ok .rdState ∧
  decodeWord 0x1400000000#38 = .error (.unadmittedAccess 0x14#32 4) ∧
  decodeWord 0x0200000000#38 = .error (.unadmittedAccess 0x02#32 4)

/-- Every instruction, at every value of its operand, decodes from the word it encodes to (30_encoding.md R57, R62, R63). -/
def Obligations.DecodeOfEncodeIsTheInstruction : Prop :=
  ∀ i : Instr, decodeWord (encode i) = .ok i

/-- A word that decodes is the canonical word of what it decodes to, but for the bits a read ignores (30_encoding.md R57,
R62). -/
def Obligations.EncodeOfDecodeIsTheWord : Prop :=
  ∀ (t : BitVec 38) (i : Instr), decodeWord t = .ok i →
    encode i = if t.getLsbD 37 = true then t else t &&& 0x3F00000000#38

/-- The decoding procedure of 30_encoding.md R63, total on any request: an instruction is read exactly from a four-byte
request in its direction at its register's offset, with its write data; every other request is refused by name. -/
def Obligations.DecodeReadsDirectionOffsetAndData : Prop :=
  (∀ (r : BusReq) (i : Instr), decode r = .ok i ↔
    (r.n = 4 ∧ r.write = i.request.write ∧ r.off = i.request.off ∧ (r.write = true → r.wdata = i.request.wdata))) ∧
  (∀ r : BusReq, (r.n ≠ 4 ∨ r.off.toNat % 4 ≠ 0 ∨ r.off ∉ [0x00#32, 0x04#32, 0x08#32, 0x0C#32, 0x10#32]) →
    decode r = .error (.unadmittedAccess r.off r.n))

/-! The step. -/

/-- On the host's turn, the step is `exec` of the instruction its bus request decodes to, at the state with the turn and the
operation taken off (20_memory.md R49, 30_encoding.md R63). -/
def Obligations.StepRunsTheDecodedTransaction : Prop :=
  ∀ (s : State) (r : BusReq) (i : Instr) (ts : List Turn) (rest : List HostOp),
    s.turns = .host :: ts → s.program = .bus r :: rest → decode r = .ok i →
      step s = exec i { s with turns := ts, program := rest }

/-- A word placed for the next step runs as the instruction it decodes to. -/
def Obligations.PlacedWordRunsNext : Prop :=
  ∀ (s : State) (nbits w : Nat) (i : Instr), decodeTableWord nbits w = some i →
    step (s.withFetchWord nbits w) = exec i s

/-- 60_exceptions.md R113: no transaction faults, errors or blocks. -/
def Obligations.EveryTransactionCompletes : Prop :=
  ∀ (i : Instr) (s : State), ∃ t, exec i s = .next t

/-- The block never stops (70_reset_and_hazards.md R138), whoever moves. -/
def Obligations.EveryStepAnswersANextState : Prop :=
  ∀ s : State, ∃ t, step s = .next t

/-- 20_memory.md R45: an access that is not admitted is refused with its offset and size as the reason; the step sets the
refusal mark and changes nothing else of the block. -/
def Obligations.UnadmittedAccessOnlyMarksRefused : Prop :=
  ∀ (s : State) (r : BusReq) (ts : List Turn) (rest : List HostOp),
    s.turns = .host :: ts → s.program = .bus r :: rest →
    (r.n ≠ 4 ∨ r.off.toNat % 4 ≠ 0 ∨ r.off ∉ [0x00#32, 0x04#32, 0x08#32, 0x0C#32, 0x10#32]) →
      decode r = .error (.unadmittedAccess r.off r.n) ∧
        step s = .next { s with turns := ts, program := rest, refused := true }

/-- 00_scope.md R10: a host access inside the window is the bus access at its offset, and one outside it leaves the block
alone (the latter is the model's reading, log entry 9). -/
def Obligations.MemoryAccessInWindowIsBusAccess : Prop :=
  ∀ (s : State) (write : Bool) (addr wdata : Word) (n : Nat),
    if Config.uartBase.toNat ≤ addr.toNat ∧ addr.toNat < Config.uartBase.toNat + Config.uartWindowBytes then
      ∃ off : Word, off.toNat = addr.toNat - Config.uartBase.toNat ∧
        runHostOp (.mem write addr n wdata) s = runHostOp (.bus ⟨write, off, n, wdata⟩) s
    else runHostOp (.mem write addr n wdata) s = .next s

/-- 20_memory.md R53: an instruction fetch from the window is refused; the block has no other answer to it. -/
def Obligations.FetchFromWindowIsRefused : Prop :=
  ∀ (s : State) (addr : Word) (ts : List Turn) (rest : List HostOp),
    s.turns = .host :: ts → s.program = .fetch addr :: rest →
    Config.uartBase.toNat ≤ addr.toNat → addr.toNat < Config.uartBase.toNat + Config.uartWindowBytes →
      step s = .next { s with turns := ts, program := rest, refused := true }

/-- Every host operation is at most one transaction (00_scope.md R8): the driver's procedures change the block only through
the transactions of 40_register_access.md (00_scope.md R5); what issues none can only set the refusal mark. -/
def Obligations.HostTurnIsOneTransaction : Prop :=
  ∀ (s : State) (op : HostOp) (rest : List HostOp), s.program = op :: rest →
    ∃ u, hostTurn s = .next u ∧
      match transactionOf op with
      | some i => ∃ t, exec i s = .next t ∧ SameBlock t u
      | none => SameBlock { s with refused := u.refused } u ∧ (s.refused = true → u.refused = true)

/-! The ten transactions: encoding, result, completion and frame. -/

/-- `RD data` (40_register_access.md R71). With nothing received yet the byte is a free value. -/
def Obligations.ReadDataReturnsAndConsumesTheByte : Prop :=
  (∀ ignored : Word, decodeWord (0b000000#6 ++ ignored) = .ok .rdData) ∧
  ∀ s : State, ∃ t, exec .rdData s = .next t ∧
    (∀ b, s.rxByte = some b → t.rdata = b.setWidth 32) ∧
    (s.rxByte = none → t.rdata = (Config.freeByte s.draws).setWidth 32) ∧
    (∀ k, 8 ≤ k → t.rdata.getLsbD k = false) ∧
    t.rxFull = false ∧ t.rxByte = s.rxByte ∧ t.rxOvf = s.rxOvf ∧
    t.poll = .noPoll ∧
    t.faults = (if s.poll = .stale then s.faults ++ [.hazardStaleStatus] else s.faults) ∧
    SameSettings s t ∧ SameTransmitSide s t ∧ t.isr = s.isr ∧ t.refused = s.refused ∧ SameHostSide s t

/-- `WR data, v` (40_register_access.md R72). Which byte an overflow leaves is OPEN: the free choice `txOverrunKeepsOld`, made
afresh at each overflow (log entry 4). -/
def Obligations.WriteDataBuffersOrOverflows : Prop :=
  (∀ v : Word, decodeWord (0b100000#6 ++ v) = .ok (.wrData v)) ∧
  ∀ (s : State) (v : Word), ∃ t, exec (.wrData v) s = .next t ∧
    (s.txFull = false → t.txByte = v.setWidth 8 ∧ t.txOvf = s.txOvf ∧ t.isr = s.isr) ∧
    (s.txFull = true →
      t.txByte = (if Config.txOverrunKeepsOld s.draws = true then s.txByte else v.setWidth 8) ∧ t.txOvf = true ∧
      t.isr = if s.control.getLsbD 4 = true then s.isr ||| 0b0100#4 else s.isr) ∧
    t.txFull = true ∧ t.wireOut = s.wireOut ∧
    t.poll = .noPoll ∧
    t.faults = (if s.poll = .stale then s.faults ++ [.hazardStaleStatus] else s.faults) ∧
    SameSettings s t ∧ SameReceiveSide s t ∧ t.refused = s.refused ∧ t.rdata = s.rdata ∧ SameHostSide s t

/-- `RD state` (40_register_access.md R73). -/
def Obligations.ReadStateReturnsTheFourFlags : Prop :=
  (∀ ignored : Word, decodeWord (0b000100#6 ++ ignored) = .ok .rdState) ∧
  ∀ s : State, ∃ t, exec .rdState s = .next t ∧
    t.rdata.getLsbD 0 = s.txFull ∧ t.rdata.getLsbD 1 = s.rxFull ∧
    t.rdata.getLsbD 2 = s.txOvf ∧ t.rdata.getLsbD 3 = s.rxOvf ∧ (∀ k, 4 ≤ k → t.rdata.getLsbD k = false) ∧
    t.poll = .fresh ∧
    SameSettings s t ∧ SameTransmitSide s t ∧ SameReceiveSide s t ∧ t.isr = s.isr ∧ t.faults = s.faults ∧
    t.refused = s.refused ∧ SameHostSide s t

/-- `WR state, v` (40_register_access.md R74): read-only, so only the poll bookkeeping, whatever `v`. -/
def Obligations.WriteStateChangesNoBlockState : Prop :=
  (∀ v : Word, decodeWord (0b100100#6 ++ v) = .ok (.wrState v)) ∧
  ∀ (s : State) (v : Word), ∃ t, exec (.wrState v) s = .next t ∧
    t.poll = (if s.poll = .fresh then .stale else s.poll) ∧
    SameSettings s t ∧ SameTransmitSide s t ∧ SameReceiveSide s t ∧ t.isr = s.isr ∧ t.faults = s.faults ∧
    t.refused = s.refused ∧ t.rdata = s.rdata ∧ SameHostSide s t

/-- `RD control` (40_register_access.md R75). -/
def Obligations.ReadControlReturnsTheSevenBits : Prop :=
  (∀ ignored : Word, decodeWord (0b001000#6 ++ ignored) = .ok .rdControl) ∧
  ∀ s : State, ∃ t, exec .rdControl s = .next t ∧
    (∀ k, k < 7 → t.rdata.getLsbD k = s.control.getLsbD k) ∧ (∀ k, 7 ≤ k → t.rdata.getLsbD k = false) ∧
    SameRecord s t ∧ SameHostSide s t

/-- `WR control, v` (40_register_access.md R76, with R94 for the frame in flight: the free choice `disturbKeeps`, log
entry 16). -/
def Obligations.WriteControlSetsTheSevenBits : Prop :=
  (∀ v : Word, decodeWord (0b101000#6 ++ v) = .ok (.wrControl v)) ∧
  ∀ (s : State) (v : Word), ∃ t, exec (.wrControl v) s = .next t ∧
    (∀ k, k < 7 → t.control.getLsbD k = v.getLsbD k) ∧
    (s.control.getLsbD 0 = true ∧ v.getLsbD 0 = false →
      KeptOrLastReplaced (Config.disturbKeeps s.draws) (Config.freeByte s.draws) s.wireOut t.wireOut) ∧
    (s.control.getLsbD 0 = false ∨ v.getLsbD 0 = true → t.wireOut = s.wireOut) ∧
    t.poll = (if s.poll = .fresh then .stale else s.poll) ∧
    t.bauddiv = s.bauddiv ∧ t.txFull = s.txFull ∧ t.txByte = s.txByte ∧ t.txOvf = s.txOvf ∧ SameReceiveSide s t ∧
    t.isr = s.isr ∧ t.faults = s.faults ∧ t.refused = s.refused ∧ t.rdata = s.rdata ∧ SameHostSide s t

/-- `RD isr` (40_register_access.md R77), with `ISR_CLEAR_ON_READ` true, its value in 00_scope.md R6. -/
def Obligations.ReadIsrReturnsAndClearsTheBits : Prop :=
  (∀ ignored : Word, decodeWord (0b001100#6 ++ ignored) = .ok .rdIsr) ∧
  ∀ s : State, ∃ t, exec .rdIsr s = .next t ∧
    (∀ k, k < 4 → t.rdata.getLsbD k = s.isr.getLsbD k) ∧ (∀ k, 4 ≤ k → t.rdata.getLsbD k = false) ∧
    t.isr = 0#4 ∧
    SameSettings s t ∧ SameTransmitSide s t ∧ SameReceiveSide s t ∧ t.poll = s.poll ∧ t.faults = s.faults ∧
    t.refused = s.refused ∧ SameHostSide s t

/-- `WR isr, v` (40_register_access.md R78): read-only, so only the poll bookkeeping, whatever `v`. -/
def Obligations.WriteIsrChangesNoBlockState : Prop :=
  (∀ v : Word, decodeWord (0b101100#6 ++ v) = .ok (.wrIsr v)) ∧
  ∀ (s : State) (v : Word), ∃ t, exec (.wrIsr v) s = .next t ∧
    t.poll = (if s.poll = .fresh then .stale else s.poll) ∧
    SameSettings s t ∧ SameTransmitSide s t ∧ SameReceiveSide s t ∧ t.isr = s.isr ∧ t.faults = s.faults ∧
    t.refused = s.refused ∧ t.rdata = s.rdata ∧ SameHostSide s t

/-- `RD bauddiv` (40_register_access.md R79): the value is a free value, drawn afresh by every read, and no block state
changes. -/
def Obligations.ReadBauddivReturnsADraw : Prop :=
  (∀ ignored : Word, decodeWord (0b010000#6 ++ ignored) = .ok .rdBauddiv) ∧
  ∀ s : State, ∃ t, exec .rdBauddiv s = .next t ∧
    t.rdata = Config.freeWord s.draws ∧ t.draws = s.draws + 1 ∧ SameRecord s t ∧ SameHostSide s t

/-- `WR bauddiv, v` (40_register_access.md R80, with R94 for the frame in flight: the free choice `disturbKeeps`, log
entry 16): the bits below the width are stored. -/
def Obligations.WriteBauddivStoresTheDivisor : Prop :=
  (∀ v : Word, decodeWord (0b110000#6 ++ v) = .ok (.wrBauddiv v)) ∧
  ∀ (s : State) (v : Word), ∃ t, exec (.wrBauddiv v) s = .next t ∧
    (∀ k, t.bauddiv.getLsbD k = (decide (k < Config.bauddivWidth) && v.getLsbD k)) ∧
    (t.bauddiv ≠ s.bauddiv → KeptOrLastReplaced (Config.disturbKeeps s.draws) (Config.freeByte s.draws) s.wireOut t.wireOut) ∧
    (t.bauddiv = s.bauddiv → t.wireOut = s.wireOut) ∧
    t.poll = (if s.poll = .fresh then .stale else s.poll) ∧
    t.control = s.control ∧ t.txFull = s.txFull ∧ t.txByte = s.txByte ∧ t.txOvf = s.txOvf ∧ SameReceiveSide s t ∧
    t.isr = s.isr ∧ t.faults = s.faults ∧ t.refused = s.refused ∧ t.rdata = s.rdata ∧ SameHostSide s t

/-! Rules common to the transactions. -/

/-- 40_register_access.md R81: the poll bookkeeping of every transaction, and the recorded fault, which does not stop it. -/
def Obligations.PollBookkeepingOfEveryTransaction : Prop :=
  ∀ (i : Instr) (s : State), ∃ t, exec i s = .next t ∧
    t.poll = (match i with
      | .rdState => .fresh
      | .wrControl _ | .wrState _ | .wrIsr _ | .wrBauddiv _ => if s.poll = .fresh then .stale else s.poll
      | .rdData | .wrData _ => .noPoll
      | .rdControl | .rdIsr | .rdBauddiv => s.poll) ∧
    t.faults = (match i with
      | .rdData | .wrData _ => if s.poll = .stale then s.faults ++ [.hazardStaleStatus] else s.faults
      | .rdState | .wrState _ | .rdControl | .wrControl _ | .rdIsr | .wrIsr _ | .rdBauddiv | .wrBauddiv _ => s.faults)

/-- 40_register_access.md R82: no transaction appends to the wire, takes a byte from the line or drains the buffer; only
`WR bauddiv` and `WR control` touch the wire, and only its last byte. -/
def Obligations.NoTransactionMovesTheLine : Prop :=
  ∀ (i : Instr) (s : State), ∃ t, exec i s = .next t ∧
    t.wireOut.length = s.wireOut.length ∧ t.wireOut.dropLast = s.wireOut.dropLast ∧
    (t.wireOut ≠ s.wireOut → ∃ v, i = .wrControl v ∨ i = .wrBauddiv v) ∧
    t.rxByte = s.rxByte ∧ (t.rxFull = true → s.rxFull = true) ∧ (s.txFull = true → t.txFull = true)

/-- 41_line_engines.md R94: exactly a changed divisor or a cleared `TX_EN` may replace the last byte on the wire by a draw,
and the free choice `disturbKeeps` says whether it does (both are admitted; log entry 16); the earlier bytes, the buffers and
the overflow bits stay. -/
def Obligations.ReconfiguringDisturbsOnlyTheLastByte : Prop :=
  ∀ (s : State) (i : Instr), (∃ v, i = .wrControl v ∨ i = .wrBauddiv v) → ∃ t, exec i s = .next t ∧
    ((t.bauddiv ≠ s.bauddiv ∨ (s.control.getLsbD 0 = true ∧ t.control.getLsbD 0 = false)) →
      KeptOrLastReplaced (Config.disturbKeeps s.draws) (Config.freeByte s.draws) s.wireOut t.wireOut) ∧
    (t.bauddiv = s.bauddiv → (s.control.getLsbD 0 = false ∨ t.control.getLsbD 0 = true) → t.wireOut = s.wireOut) ∧
    t.txByte = s.txByte ∧ t.txFull = s.txFull ∧ t.txOvf = s.txOvf ∧ SameReceiveSide s t

/-- 20_memory.md R47: each write but that of `data` is idempotent, so a second one right after changes nothing at all. -/
def Obligations.RegisterWritesAreIdempotent : Prop :=
  ∀ (s : State) (v : Word) (i : Instr), i ∈ [Instr.wrState v, .wrControl v, .wrIsr v, .wrBauddiv v] →
    ∃ t, exec i s = .next t ∧ exec i t = .next t

/-- 30_encoding.md R59: which bits of `wdata` each write uses; two values that agree there do the same, both taking
the same draws (in an overflow and a disturbed frame; log entry 3). -/
def Obligations.WritesIgnoreUnusedDataBits : Prop :=
  ∀ (s : State) (v w : Word),
    (v.setWidth 8 = w.setWidth 8 → exec (.wrData v) s = exec (.wrData w) s) ∧
    exec (.wrState v) s = exec (.wrState w) s ∧
    (v.setWidth 7 = w.setWidth 7 → exec (.wrControl v) s = exec (.wrControl w) s) ∧
    exec (.wrIsr v) s = exec (.wrIsr w) s ∧
    (v.setWidth Config.bauddivWidth = w.setWidth Config.bauddivWidth →
      exec (.wrBauddiv v) s = exec (.wrBauddiv w) s)

/-- 10_state.md R16: the two sides of `data` are separate stores, so what a read returns does not depend on the transmit
buffer. Both states take the same draws (log entry 3). -/
def Obligations.DataReadIgnoresTheTransmitBuffer : Prop :=
  ∀ (s : State) (b : Byte) (full ovf : Bool) (t u : State), exec .rdData s = .next t →
    exec .rdData { s with txByte := b, txFull := full, txOvf := ovf } = .next u →
      u.rdata = t.rdata ∧ SameReceiveSide t u

/-- 10_state.md R23, R31, R32: bits 1 to 6 of `control` gate no transaction. Two states that differ only in them answer
alike, but for `control` itself and `isr`. Both take the same draws (log entry 3). -/
def Obligations.EnablesGateNoTransaction : Prop :=
  ∀ (i : Instr) (s : State) (c : BitVec 7) (t u : State), c.getLsbD 0 = s.control.getLsbD 0 → i ≠ .rdControl →
    exec i s = .next t → exec i { s with control := c } = .next u →
      u.rdata = t.rdata ∧ u.bauddiv = t.bauddiv ∧ SameTransmitSide t u ∧ SameReceiveSide t u ∧ u.poll = t.poll ∧
        u.faults = t.faults ∧ u.refused = t.refused

/-! The engines. -/

/-- `TX_STEP` where it is enabled (41_line_engines.md R86, R92): the buffered byte goes on the wire; under a divisor that is
not valid the byte is a free value. -/
def Obligations.TransmitterSendsTheBufferedByte : Prop :=
  ∀ s : State, nextTurn s = .transmitter → s.control.getLsbD 0 = true → s.txFull = true →
    ∃ t, step s = .next t ∧
      t.wireOut = s.wireOut ++
        [if baudValid s.bauddiv = true then s.txByte else Config.freeByte (turnTaken s).draws] ∧
      t.txFull = false ∧
      t.isr = (if s.control.getLsbD 2 = true then s.isr ||| 0b0001#4 else s.isr) ∧
      t.txByte = s.txByte ∧ t.txOvf = s.txOvf ∧ SameSettings s t ∧ SameReceiveSide s t ∧ t.poll = s.poll ∧
      t.faults = s.faults ∧ t.refused = s.refused ∧ t.rdata = s.rdata ∧ t.program = s.program ∧ t.returns = s.returns

/-- `TX_STEP` is disabled in every other state (41_line_engines.md R85): the transmitter's turn changes nothing. -/
def Obligations.DisabledTransmitterChangesNothing : Prop :=
  ∀ s : State, nextTurn s = .transmitter → (s.control.getLsbD 0 = false ∨ s.txFull = false) →
    ∃ t, step s = .next t ∧ SameRecord s t ∧ t.rdata = s.rdata ∧ t.program = s.program ∧ t.returns = s.returns

/-- `RX_BYTE b` with `RX_EN` 1 (41_line_engines.md R88): stored into the empty buffer, or the overflow case, which keeps one
of the two bytes: the free choice `rxOverrunKeepsOld`, made afresh at each overflow (log entry 5). Under a divisor that is
not valid the byte is a free value (R92). -/
def Obligations.ReceiverStoresOrOverflows : Prop :=
  ∀ (s : State) (b : Byte), nextTurn s = .receiver b → s.control.getLsbD 1 = true →
    ∃ (t : State) (stored : Byte), step s = .next t ∧
      stored = (if baudValid s.bauddiv = true then b else Config.freeByte (turnTaken s).draws) ∧
      (s.rxFull = false → t.rxByte = some stored ∧ t.rxOvf = s.rxOvf ∧
        t.isr = if s.control.getLsbD 3 = true then s.isr ||| 0b0010#4 else s.isr) ∧
      (s.rxFull = true →
        t.rxByte = (if Config.rxOverrunKeepsOld (turnTaken s).draws = true then s.rxByte else some stored) ∧
        t.rxOvf = true ∧
        t.isr = if s.control.getLsbD 5 = true then s.isr ||| 0b1000#4 else s.isr) ∧
      t.rxFull = true ∧ SameSettings s t ∧ SameTransmitSide s t ∧ t.poll = s.poll ∧ t.faults = s.faults ∧
      t.refused = s.refused ∧ t.rdata = s.rdata ∧ t.program = s.program ∧ t.returns = s.returns

/-- `RX_BYTE b` with `RX_EN` 0 (41_line_engines.md R89): the byte is lost and no field changes. -/
def Obligations.DisabledReceiverLosesTheByte : Prop :=
  ∀ (s : State) (b : Byte), nextTurn s = .receiver b → s.control.getLsbD 1 = false →
    ∃ t, step s = .next t ∧ SameRecord s t ∧ t.rdata = s.rdata ∧ t.program = s.program ∧ t.returns = s.returns

/-- 41_line_engines.md R97: what no engine step changes. -/
def Obligations.EngineStepsKeepTheHostsRegisters : Prop :=
  ∀ s : State, (nextTurn s = .transmitter ∨ ∃ b, nextTurn s = .receiver b) →
    ∃ t, step s = .next t ∧ SameSettings s t ∧ t.poll = s.poll ∧ t.faults = s.faults ∧ t.refused = s.refused ∧
      t.rdata = s.rdata ∧ t.program = s.program ∧ t.returns = s.returns ∧
      (nextTurn s = .transmitter → SameReceiveSide s t) ∧ (nextTurn s ≠ .transmitter → SameTransmitSide s t)

/-- 41_line_engines.md R90 (the spec derives it): the bytes sent followed by the byte buffered grow only at an accepted write
and lose nothing to the transmitter's step or the receiver's. -/
def Obligations.AcceptedBytesAreSentInOrder : Prop :=
  (∀ (s : State) (v : Word), s.txFull = false →
    ∃ t, exec (.wrData v) s = .next t ∧ sentOrBuffered t = sentOrBuffered s ++ [v.setWidth 8]) ∧
  (∀ s : State, nextTurn s = .transmitter → ∃ t, step s = .next t ∧
    (sentOrBuffered t = sentOrBuffered s ∨
      (baudValid s.bauddiv = false ∧ sentOrBuffered t = s.wireOut ++ [Config.freeByte (turnTaken s).draws]))) ∧
  (∀ (s : State) (b : Byte), nextTurn s = .receiver b → ∃ t, step s = .next t ∧ sentOrBuffered t = sentOrBuffered s)

/-! Flags, interrupts, faults and the wire over every step. -/

/-- 10_state.md R25 with R20, R21: an overflow bit is set exactly by its event, and only reset clears it. -/
def Obligations.OverflowBitsAreStickyUntilReset : Prop :=
  ∀ s t : State, step s = .next t →
    (nextTurn s = .reset → t.txOvf = false ∧ t.rxOvf = false) ∧
    (nextTurn s ≠ .reset →
      (t.txOvf = true ↔ s.txOvf = true ∨ (s.txFull = true ∧ ∃ v, stepTransaction s = some (.wrData v))) ∧
      (t.rxOvf = true ↔ s.rxOvf = true ∨
        (s.rxFull = true ∧ s.control.getLsbD 1 = true ∧ ∃ b, nextTurn s = .receiver b)))

/-- 60_exceptions.md R114 and 10_state.md R28: a step sets an `isr` bit exactly at the event of its source with its enable 1,
both in the state before the step. -/
def Obligations.IsrBitsAreSetExactlyAtTheirEvents : Prop :=
  ∀ (s t : State) (k : Nat), step s = .next t → s.isr.getLsbD k = false →
    (t.isr.getLsbD k = true ↔
      s.control.getLsbD (k + 2) = true ∧
        ((k = 0 ∧ nextTurn s = .transmitter ∧ s.control.getLsbD 0 = true ∧ s.txFull = true) ∨
          (k = 1 ∧ (∃ b, nextTurn s = .receiver b) ∧ s.control.getLsbD 1 = true ∧ s.rxFull = false) ∨
          (k = 2 ∧ (∃ v, stepTransaction s = some (.wrData v)) ∧ s.txFull = true) ∨
          (k = 3 ∧ (∃ b, nextTurn s = .receiver b) ∧ s.control.getLsbD 1 = true ∧ s.rxFull = true)))

/-- 60_exceptions.md R119 (the spec derives it): no step sets two `isr` bits. -/
def Obligations.AtMostOneIsrBitSetPerStep : Prop :=
  ∀ s t : State, step s = .next t → ∃ k, ∀ j, j ≠ k → t.isr.getLsbD j = true → s.isr.getLsbD j = true

/-- 60_exceptions.md R115: a pending bit is cleared only by a read of `isr`, or by reset; both clear all four. -/
def Obligations.PendingBitsClearOnlyOnReadOrReset : Prop :=
  ∀ s t : State, step s = .next t →
    ((nextTurn s = .reset ∨ stepTransaction s = some .rdIsr) → t.isr = 0#4) ∧
    (nextTurn s ≠ .reset → stepTransaction s ≠ some .rdIsr →
      ∀ k, s.isr.getLsbD k = true → t.isr.getLsbD k = true)

/-- 60_exceptions.md R116: each output is the level of its `isr` bit, and the combined one is high exactly when some bit is
pending. -/
def Obligations.InterruptOutputsFollowIsr : Prop :=
  ∀ s : State,
    irqOutput s .transmit = s.isr.getLsbD 0 ∧ irqOutput s .receive = s.isr.getLsbD 1 ∧
    irqOutput s .transmitOverflow = s.isr.getLsbD 2 ∧ irqOutput s .receiveOverflow = s.isr.getLsbD 3 ∧
    (irqAny s = true ↔ s.isr ≠ 0#4)

/-- 00_scope.md R9: a recorded fault and the refusal mark are never cleared by a step of an agent. -/
def Obligations.FaultsAndRefusalAreNeverCleared : Prop :=
  ∀ s t : State, step s = .next t → nextTurn s ≠ .reset →
    s.faults <+: t.faults ∧ (s.refused = true → t.refused = true)

/-- 70_reset_and_hazards.md R134: a step records a fault exactly when a data access finds the poll stale. -/
def Obligations.HazardIsRecordedExactlyOnAStalePoll : Prop :=
  ∀ s t : State, step s = .next t → nextTurn s ≠ .reset →
    (t.faults = s.faults ++ [.hazardStaleStatus] ↔
      s.poll = .stale ∧ (stepTransaction s = some .rdData ∨ ∃ v, stepTransaction s = some (.wrData v))) ∧
    (t.faults = s.faults ∨ t.faults = s.faults ++ [.hazardStaleStatus])

/-- 41_line_engines.md R94, R97: over one step the wire is kept, grows by the transmitter's one byte, or has its last byte
replaced by a reconfiguring write. -/
def Obligations.WireOnlyGrowsOrLosesItsLastByte : Prop :=
  ∀ s t : State, step s = .next t → nextTurn s ≠ .reset →
    t.wireOut = s.wireOut ∨
    (nextTurn s = .transmitter ∧ ∃ b, t.wireOut = s.wireOut ++ [b]) ∨
    ((∃ v, stepTransaction s = some (.wrControl v) ∨ stepTransaction s = some (.wrBauddiv v)) ∧
      ∃ earlier last b, s.wireOut = earlier ++ [last] ∧ t.wireOut = earlier ++ [b])

/-- The counter behind the free values (00_scope.md R9; the model's own, log entry 3) never goes back, and no draw is taken
twice: a free turn is drawn at a counter below the one the turn runs at, and a turn that takes a draw, or makes a free
choice, ends with a counter above the one it drew at. The cases: `TX_STEP`, `RX_BYTE`, the platform's reset, `RD bauddiv`,
`RD data` before any byte, `WR data` into the full buffer, and the two reconfigurations. -/
def Obligations.DrawCounterNeverGoesBack : Prop :=
  ∀ s t : State, step s = .next t →
    s.draws ≤ (turnTaken s).draws ∧ (turnTaken s).draws ≤ t.draws ∧
    (s.turns = [] → s.draws < (turnTaken s).draws) ∧
    ((nextTurn s = .transmitter ∧ s.control.getLsbD 0 = true ∧ s.txFull = true) ∨
      ((∃ b, nextTurn s = .receiver b) ∧ s.control.getLsbD 1 = true) ∨
      nextTurn s = .reset ∨
      stepTransaction s = some .rdBauddiv ∨
      (stepTransaction s = some .rdData ∧ s.rxByte = none) ∨
      ((∃ v, stepTransaction s = some (.wrData v)) ∧ s.txFull = true) ∨
      (∃ v, stepTransaction s = some (.wrControl v) ∧ s.control.getLsbD 0 = true ∧ v.getLsbD 0 = false) ∨
      (∃ v, stepTransaction s = some (.wrBauddiv v) ∧ lowBits Config.bauddivWidth v ≠ s.bauddiv) →
        (turnTaken s).draws < t.draws)

/-! Reset and invariants. -/

/-- 10_state.md R36: the state after reset (the values are the spec's decision D19). `tx_byte`, which R36 leaves unspecified,
is not stated. -/
def Obligations.ResetLeavesTheStatedValues : Prop :=
  State.reset.control = 0#7 ∧ State.reset.bauddiv = 0#32 ∧ baudValid State.reset.bauddiv = false ∧
  State.reset.txFull = false ∧ State.reset.rxFull = false ∧ State.reset.txOvf = false ∧ State.reset.rxOvf = false ∧
  (∃ t, exec .rdState State.reset = .next t ∧ t.rdata = 0#32) ∧
  State.reset.isr = 0#4 ∧ State.reset.rxByte = none ∧ State.reset.wireOut = [] ∧ State.reset.poll = .noPoll ∧
  State.reset.faults = [] ∧ State.reset.refused = false

/-- 70_reset_and_hazards.md R127: a later reset gives every field of the record its value of 10_state.md R36, `tx_byte` a free
value. -/
def Obligations.PlatformResetReturnsTheRecord : Prop :=
  ∀ s : State, nextTurn s = .reset → ∃ t, step s = .next t ∧
    SameRecord { State.reset with txByte := Config.freeByte (turnTaken s).draws } t

/-- The block's invariant holds at reset (10_state.md R26, R29, R36). -/
def Obligations.ResetMeetsTheBlockInvariant : Prop := BlockInvariant State.reset

/-- Every step keeps the block's invariant: a full receive buffer holds a received byte (10_state.md R26), and the stored
divisor has no bit at or above `BAUDDIV_WIDTH` (R29). -/
def Obligations.EveryStepKeepsTheBlockInvariant : Prop :=
  ∀ s t : State, BlockInvariant s → step s = .next t → BlockInvariant t

/-! The driver's procedures and the divisor (42_driver.md). -/

/-- 42_driver.md R109: the divisor arithmetic with its examples, that a divisor fits every width of 25 bits or more, and that a
rate of 0 is refused. -/
def Obligations.DivisorArithmeticLaws : Prop :=
  (∀ r, 1 ≤ r →
    divisorFor r * r ≤ 25000000 ∧ 25000000 < (divisorFor r + 1) * r ∧
    (divisorFor r * r = 25000000 ↔ r ∣ 25000000) ∧ divisorFor r ≤ 25000000 ∧
    (25000000 < r → divisorFor r = 0) ∧
    (∀ width, 25 ≤ width → (lowBits width (BitVec.ofNat 32 (divisorFor r))).toNat = divisorFor r)) ∧
  25000000 = 2 ^ 6 * 5 ^ 8 ∧ divisorFor 25000000 = 1 ∧ divisorFor 1000000 = 25 ∧ divisorFor 250000 = 100 ∧ divisorFor 100000 = 250 ∧
  divisorFor 50000 = 500 ∧
  ∀ s : State, runHostOp (.call (.init 0)) s = .next { s with refused := true }

/-- 42_driver.md R99, R100: `INIT r` writes the divisor, a word below 2^25, then 0x3 to `control`, in two turns of the
host. -/
def Obligations.InitWritesDivisorThenControl : Prop :=
  ∀ (s : State) (r : Nat) (ts : List Turn) (rest : List HostOp),
    1 ≤ r → s.turns = .host :: .host :: ts → s.program = .call (.init r) :: rest →
      25000000 / r < 2 ^ 25 ∧
      ∃ t u, step s = .next t ∧ step t = .next u ∧
        t.bauddiv = lowBits Config.bauddivWidth (BitVec.ofNat 32 (25000000 / r)) ∧ t.control = s.control ∧
        u.control = 0b0000011#7 ∧ u.bauddiv = t.bauddiv ∧ u.isr = s.isr ∧ u.faults = s.faults ∧ u.program = rest

/-- 42_driver.md R101: `INIT 0` is refused, and writes nothing. -/
def Obligations.InitZeroIsRefused : Prop :=
  ∀ (s : State) (ts : List Turn) (rest : List HostOp),
    s.turns = .host :: ts → s.program = .call (.init 0) :: rest →
      step s = .next { s with turns := ts, program := rest, refused := true }

/-- 42_driver.md R102, R104: a wait polls `state` once a turn and ends exactly when its bit has the awaited value. -/
def Obligations.WaitsSpinUntilTheirStatusBit : Prop :=
  ∀ (s : State) (ts : List Turn) (rest : List HostOp), s.turns = .host :: ts →
    (s.program = .call .waitTxReady :: rest → ∃ t, step s = .next t ∧ t.poll = .fresh ∧ t.rdata.getLsbD 0 = s.txFull ∧
      t.program = if s.txFull = true then s.program else rest) ∧
    (s.program = .call .waitRxReady :: rest → ∃ t, step s = .next t ∧ t.poll = .fresh ∧ t.rdata.getLsbD 1 = s.rxFull ∧
      t.program = if s.rxFull = true then rest else s.program)

/-- 42_driver.md R102, R103: `PUTCHAR c` of any byte but a line-feed, whose first poll finds the transmit buffer empty (the
other case is `CallsWaitForTheirStatusBit`). The 32 bits of the value returned are the model's choice (log entry 23). -/
def Obligations.PutCharBuffersAndReturnsTheByte : Prop :=
  ∀ (s : State) (c : Byte) (ts : List Turn) (rest : List HostOp),
    c ≠ 0x0A#8 → s.txFull = false → s.turns = .host :: .host :: ts → s.program = .call (.putChar c) :: rest →
      ∃ t u, step s = .next t ∧ step t = .next u ∧ t.rdata.getLsbD 0 = false ∧
        u.txFull = true ∧ u.txByte = c ∧ u.txOvf = s.txOvf ∧ u.returns = s.returns ++ [c.setWidth 32] ∧
        u.faults = s.faults ∧ u.program = rest

/-- 42_driver.md R102, R103: `PUTCHAR 0x0A` whose first poll finds the transmit buffer empty, with `TX_EN` 1 and one
transmitter step between the two writes. A carriage-return is buffered first, then the line-feed, which is returned (in 32
bits, the model's choice, log entry 23). What the transmitter's step puts on the wire is the carriage-return where the
divisor is valid, and else a free value (41_line_engines.md R92; decision D9, premise V of 95_test_vectors.md). -/
def Obligations.PutCharPrecedesLineFeedByCarriageReturn : Prop :=
  ∀ (s : State) (ts : List Turn) (rest : List HostOp),
    s.txFull = false → s.control.getLsbD 0 = true →
    s.turns = .host :: .host :: .transmitter :: .host :: .host :: ts → s.program = .call (.putChar 0x0A#8) :: rest →
      ∃ t1 t2 t3 t4 u, step s = .next t1 ∧ step t1 = .next t2 ∧ step t2 = .next t3 ∧ step t3 = .next t4 ∧
        step t4 = .next u ∧
        u.wireOut = s.wireOut ++ [if baudValid s.bauddiv = true then 0x0D#8 else Config.freeByte s.draws] ∧
        u.txFull = true ∧ u.txByte = 0x0A#8 ∧ u.returns = s.returns ++ [0x0A#32] ∧ u.faults = s.faults ∧
        u.program = rest

/-- 42_driver.md R104, R105: `GETCHAR` with a byte waiting reads it, turns a carriage-return into a line-feed, and goes on to
echo the result (with none waiting: `CallsWaitForTheirStatusBit`). -/
def Obligations.GetCharTranslatesAndEchoes : Prop :=
  ∀ (s : State) (b : Byte) (ts : List Turn) (rest : List HostOp),
    s.rxFull = true → s.rxByte = some b → s.turns = .host :: .host :: ts → s.program = .call .getChar :: rest →
      ∃ t u, step s = .next t ∧ step t = .next u ∧ t.rdata.getLsbD 1 = true ∧
        u.rdata = b.setWidth 32 ∧ u.rxFull = false ∧ u.faults = s.faults ∧
        u.program = .call (.putChar (if b = 0x0D#8 then 0x0A#8 else b)) :: rest

/-- 42_driver.md R111 (the spec derives it): a host that runs only the driver's procedures records no hazard, whatever the
engines, the line and the schedule do. -/
def Obligations.EveryStepKeepsTheDriverHazardFree : Prop :=
  ∀ s t : State, DriverHazardFree s → step s = .next t → DriverHazardFree t

/-- 60_exceptions.md R122 (the spec derives it): under the driver every interrupt enable and every `isr` bit stays 0. -/
def Obligations.EveryStepKeepsTheDriverInterruptsOff : Prop :=
  ∀ s t : State, DriverInterruptsOff s → step s = .next t → DriverInterruptsOff t

/-- 41_line_engines.md R91: on a weakly fair run the transmitter is never owed a step for ever, so a wait for the transmit
buffer can end. -/
def Obligations.FairTransmitterIsNotOwedForEver : Prop :=
  ∀ run : Nat → State, IsRun run → WeaklyFair run → ∀ n, ∃ m, n ≤ m ∧ ¬ TransmitterOwed (run m)

/-- 42_driver.md R98 with R102, R103: the driver drives any block put behind its handle. On the simulated one of
90_conflicts.md C2, wherever it stands, a sequence of `PUTCHAR` calls writes to `data` exactly its bytes, each line-feed
preceded by a carriage-return, and returns the bytes it was given. -/
def Obligations.PutCharsDriveASimulatedBlock : Prop :=
  ∀ (base : Word) (bytes : List Byte) (log : List Word) (turns : Nat), 4 * bytes.length ≤ turns →
    driverRun (recordingBlock base) turns (bytes.map .putChar) log =
      .next
        { block := log ++ bytes.flatMap (fun c => if c = 0x0A#8 then [0x0D#32, 0x0A#32] else [c.setWidth 32]),
          left := [], returned := bytes, refused := false }

/-- 42_driver.md R102 to R105: a call whose first poll finds its status bit not as awaited keeps all it has to do. `PUTCHAR`
of any byte with the transmit buffer full, and `GETCHAR` with the receive buffer empty, leave the block alone but for the
poll, and what is left in the program is the wait (which `WaitsSpinUntilTheirStatusBit` says ends at its bit) and then every
access of the call. The last two clauses say what those accesses do when their turn comes, and what they leave. The 32 bits
of the value returned are the model's choice (log entry 23). -/
def Obligations.CallsWaitForTheirStatusBit : Prop :=
  ∀ (s : State) (ts : List Turn) (rest : List HostOp), s.turns = .host :: ts →
    (∀ c : Byte, s.program = .call (.putChar c) :: rest → s.txFull = true →
      ∃ t, step s = .next t ∧ t.rdata.getLsbD 0 = true ∧ t.poll = .fresh ∧
        SameSettings s t ∧ SameTransmitSide s t ∧ SameReceiveSide s t ∧ t.isr = s.isr ∧ t.faults = s.faults ∧
        t.refused = s.refused ∧ t.returns = s.returns ∧ t.turns = ts ∧
        t.program =
          (if c = 0x0A#8 then
            [.call .waitTxReady, .call (.sendByte 0x0D#8 false), .call .waitTxReady, .call (.sendByte 0x0A#8 true)]
          else [.call .waitTxReady, .call (.sendByte c true)]) ++ rest) ∧
    (s.program = .call .getChar :: rest → s.rxFull = false →
      ∃ t, step s = .next t ∧ t.rdata.getLsbD 1 = false ∧ t.poll = .fresh ∧
        SameSettings s t ∧ SameTransmitSide s t ∧ SameReceiveSide s t ∧ t.isr = s.isr ∧ t.faults = s.faults ∧
        t.refused = s.refused ∧ t.returns = s.returns ∧ t.turns = ts ∧
        t.program = .call .waitRxReady :: .call .receiveByte :: rest) ∧
    (∀ (c : Byte) (returns : Bool), s.program = .call (.sendByte c returns) :: rest → s.txFull = false →
      ∃ t, step s = .next t ∧ t.txFull = true ∧ t.txByte = c ∧ t.turns = ts ∧ t.program = rest ∧
        t.returns = if returns = true then s.returns ++ [c.setWidth 32] else s.returns) ∧
    (∀ b : Byte, s.program = .call .receiveByte :: rest → s.rxByte = some b →
      ∃ t, step s = .next t ∧ t.rdata = b.setWidth 32 ∧ t.rxFull = false ∧ t.turns = ts ∧ t.returns = s.returns ∧
        t.program = .call (.putChar (if b = 0x0D#8 then 0x0A#8 else b)) :: rest)
end

