-- ==== Sys2Proof/Laws/State.lean ====
section
/-! SUPPORT. One lemma per field per shared update of the state, so that no later proof unfolds a record update. -/

namespace Sys2Proof.Machine

open Sys2Proof

@[simp] theorem returnWord_control (v : Word) (s : State) : (returnWord v s).control = s.control := rfl
@[simp] theorem returnWord_bauddiv (v : Word) (s : State) : (returnWord v s).bauddiv = s.bauddiv := rfl
@[simp] theorem returnWord_txFull (v : Word) (s : State) : (returnWord v s).txFull = s.txFull := rfl
@[simp] theorem returnWord_rxFull (v : Word) (s : State) : (returnWord v s).rxFull = s.rxFull := rfl
@[simp] theorem returnWord_txOvf (v : Word) (s : State) : (returnWord v s).txOvf = s.txOvf := rfl
@[simp] theorem returnWord_rxOvf (v : Word) (s : State) : (returnWord v s).rxOvf = s.rxOvf := rfl
@[simp] theorem returnWord_isr (v : Word) (s : State) : (returnWord v s).isr = s.isr := rfl
@[simp] theorem returnWord_txByte (v : Word) (s : State) : (returnWord v s).txByte = s.txByte := rfl
@[simp] theorem returnWord_rxByte (v : Word) (s : State) : (returnWord v s).rxByte = s.rxByte := rfl
@[simp] theorem returnWord_wireOut (v : Word) (s : State) : (returnWord v s).wireOut = s.wireOut := rfl
@[simp] theorem returnWord_poll (v : Word) (s : State) : (returnWord v s).poll = s.poll := rfl
@[simp] theorem returnWord_faults (v : Word) (s : State) : (returnWord v s).faults = s.faults := rfl
@[simp] theorem returnWord_refused (v : Word) (s : State) : (returnWord v s).refused = s.refused := rfl
@[simp] theorem returnWord_rdata (v : Word) (s : State) : (returnWord v s).rdata = v := rfl
@[simp] theorem returnWord_returns (v : Word) (s : State) : (returnWord v s).returns = s.returns := rfl
@[simp] theorem returnWord_program (v : Word) (s : State) : (returnWord v s).program = s.program := rfl
@[simp] theorem returnWord_turns (v : Word) (s : State) : (returnWord v s).turns = s.turns := rfl
@[simp] theorem returnWord_draws (v : Word) (s : State) : (returnWord v s).draws = s.draws := rfl

@[simp] theorem countDraw_control (s : State) : (countDraw s).control = s.control := rfl
@[simp] theorem countDraw_bauddiv (s : State) : (countDraw s).bauddiv = s.bauddiv := rfl
@[simp] theorem countDraw_txFull (s : State) : (countDraw s).txFull = s.txFull := rfl
@[simp] theorem countDraw_rxFull (s : State) : (countDraw s).rxFull = s.rxFull := rfl
@[simp] theorem countDraw_txOvf (s : State) : (countDraw s).txOvf = s.txOvf := rfl
@[simp] theorem countDraw_rxOvf (s : State) : (countDraw s).rxOvf = s.rxOvf := rfl
@[simp] theorem countDraw_isr (s : State) : (countDraw s).isr = s.isr := rfl
@[simp] theorem countDraw_txByte (s : State) : (countDraw s).txByte = s.txByte := rfl
@[simp] theorem countDraw_rxByte (s : State) : (countDraw s).rxByte = s.rxByte := rfl
@[simp] theorem countDraw_wireOut (s : State) : (countDraw s).wireOut = s.wireOut := rfl
@[simp] theorem countDraw_poll (s : State) : (countDraw s).poll = s.poll := rfl
@[simp] theorem countDraw_faults (s : State) : (countDraw s).faults = s.faults := rfl
@[simp] theorem countDraw_refused (s : State) : (countDraw s).refused = s.refused := rfl
@[simp] theorem countDraw_rdata (s : State) : (countDraw s).rdata = s.rdata := rfl
@[simp] theorem countDraw_returns (s : State) : (countDraw s).returns = s.returns := rfl
@[simp] theorem countDraw_program (s : State) : (countDraw s).program = s.program := rfl
@[simp] theorem countDraw_turns (s : State) : (countDraw s).turns = s.turns := rfl
@[simp] theorem countDraw_draws (s : State) : (countDraw s).draws = s.draws + 1 := rfl

@[simp] theorem afterPoll_control (s : State) : (afterPoll s).control = s.control := rfl
@[simp] theorem afterPoll_bauddiv (s : State) : (afterPoll s).bauddiv = s.bauddiv := rfl
@[simp] theorem afterPoll_txFull (s : State) : (afterPoll s).txFull = s.txFull := rfl
@[simp] theorem afterPoll_rxFull (s : State) : (afterPoll s).rxFull = s.rxFull := rfl
@[simp] theorem afterPoll_txOvf (s : State) : (afterPoll s).txOvf = s.txOvf := rfl
@[simp] theorem afterPoll_rxOvf (s : State) : (afterPoll s).rxOvf = s.rxOvf := rfl
@[simp] theorem afterPoll_isr (s : State) : (afterPoll s).isr = s.isr := rfl
@[simp] theorem afterPoll_txByte (s : State) : (afterPoll s).txByte = s.txByte := rfl
@[simp] theorem afterPoll_rxByte (s : State) : (afterPoll s).rxByte = s.rxByte := rfl
@[simp] theorem afterPoll_wireOut (s : State) : (afterPoll s).wireOut = s.wireOut := rfl
@[simp] theorem afterPoll_poll (s : State) : (afterPoll s).poll = .fresh := rfl
@[simp] theorem afterPoll_faults (s : State) : (afterPoll s).faults = s.faults := rfl
@[simp] theorem afterPoll_refused (s : State) : (afterPoll s).refused = s.refused := rfl
@[simp] theorem afterPoll_rdata (s : State) : (afterPoll s).rdata = s.rdata := rfl
@[simp] theorem afterPoll_returns (s : State) : (afterPoll s).returns = s.returns := rfl
@[simp] theorem afterPoll_program (s : State) : (afterPoll s).program = s.program := rfl
@[simp] theorem afterPoll_turns (s : State) : (afterPoll s).turns = s.turns := rfl
@[simp] theorem afterPoll_draws (s : State) : (afterPoll s).draws = s.draws := rfl

@[simp] theorem afterRegisterWrite_control (s : State) : (afterRegisterWrite s).control = s.control := rfl
@[simp] theorem afterRegisterWrite_bauddiv (s : State) : (afterRegisterWrite s).bauddiv = s.bauddiv := rfl
@[simp] theorem afterRegisterWrite_txFull (s : State) : (afterRegisterWrite s).txFull = s.txFull := rfl
@[simp] theorem afterRegisterWrite_rxFull (s : State) : (afterRegisterWrite s).rxFull = s.rxFull := rfl
@[simp] theorem afterRegisterWrite_txOvf (s : State) : (afterRegisterWrite s).txOvf = s.txOvf := rfl
@[simp] theorem afterRegisterWrite_rxOvf (s : State) : (afterRegisterWrite s).rxOvf = s.rxOvf := rfl
@[simp] theorem afterRegisterWrite_isr (s : State) : (afterRegisterWrite s).isr = s.isr := rfl
@[simp] theorem afterRegisterWrite_txByte (s : State) : (afterRegisterWrite s).txByte = s.txByte := rfl
@[simp] theorem afterRegisterWrite_rxByte (s : State) : (afterRegisterWrite s).rxByte = s.rxByte := rfl
@[simp] theorem afterRegisterWrite_wireOut (s : State) : (afterRegisterWrite s).wireOut = s.wireOut := rfl
@[simp] theorem afterRegisterWrite_poll (s : State) : (afterRegisterWrite s).poll = s.poll.afterWrite := rfl
@[simp] theorem afterRegisterWrite_faults (s : State) : (afterRegisterWrite s).faults = s.faults := rfl
@[simp] theorem afterRegisterWrite_refused (s : State) : (afterRegisterWrite s).refused = s.refused := rfl
@[simp] theorem afterRegisterWrite_rdata (s : State) : (afterRegisterWrite s).rdata = s.rdata := rfl
@[simp] theorem afterRegisterWrite_returns (s : State) : (afterRegisterWrite s).returns = s.returns := rfl
@[simp] theorem afterRegisterWrite_program (s : State) : (afterRegisterWrite s).program = s.program := rfl
@[simp] theorem afterRegisterWrite_turns (s : State) : (afterRegisterWrite s).turns = s.turns := rfl
@[simp] theorem afterRegisterWrite_draws (s : State) : (afterRegisterWrite s).draws = s.draws := rfl

@[simp] theorem afterDataAccess_control (s : State) : (afterDataAccess s).control = s.control := rfl
@[simp] theorem afterDataAccess_bauddiv (s : State) : (afterDataAccess s).bauddiv = s.bauddiv := rfl
@[simp] theorem afterDataAccess_txFull (s : State) : (afterDataAccess s).txFull = s.txFull := rfl
@[simp] theorem afterDataAccess_rxFull (s : State) : (afterDataAccess s).rxFull = s.rxFull := rfl
@[simp] theorem afterDataAccess_txOvf (s : State) : (afterDataAccess s).txOvf = s.txOvf := rfl
@[simp] theorem afterDataAccess_rxOvf (s : State) : (afterDataAccess s).rxOvf = s.rxOvf := rfl
@[simp] theorem afterDataAccess_isr (s : State) : (afterDataAccess s).isr = s.isr := rfl
@[simp] theorem afterDataAccess_txByte (s : State) : (afterDataAccess s).txByte = s.txByte := rfl
@[simp] theorem afterDataAccess_rxByte (s : State) : (afterDataAccess s).rxByte = s.rxByte := rfl
@[simp] theorem afterDataAccess_wireOut (s : State) : (afterDataAccess s).wireOut = s.wireOut := rfl
@[simp] theorem afterDataAccess_poll (s : State) : (afterDataAccess s).poll = .noPoll := rfl
@[simp] theorem afterDataAccess_faults (s : State) : (afterDataAccess s).faults = s.faults ++ hazardOf s.poll := rfl
@[simp] theorem afterDataAccess_refused (s : State) : (afterDataAccess s).refused = s.refused := rfl
@[simp] theorem afterDataAccess_rdata (s : State) : (afterDataAccess s).rdata = s.rdata := rfl
@[simp] theorem afterDataAccess_returns (s : State) : (afterDataAccess s).returns = s.returns := rfl
@[simp] theorem afterDataAccess_program (s : State) : (afterDataAccess s).program = s.program := rfl
@[simp] theorem afterDataAccess_turns (s : State) : (afterDataAccess s).turns = s.turns := rfl
@[simp] theorem afterDataAccess_draws (s : State) : (afterDataAccess s).draws = s.draws := rfl

@[simp] theorem refuse_control (e : RefuseReason) (s : State) : (refuse e s).control = s.control := rfl
@[simp] theorem refuse_bauddiv (e : RefuseReason) (s : State) : (refuse e s).bauddiv = s.bauddiv := rfl
@[simp] theorem refuse_txFull (e : RefuseReason) (s : State) : (refuse e s).txFull = s.txFull := rfl
@[simp] theorem refuse_rxFull (e : RefuseReason) (s : State) : (refuse e s).rxFull = s.rxFull := rfl
@[simp] theorem refuse_txOvf (e : RefuseReason) (s : State) : (refuse e s).txOvf = s.txOvf := rfl
@[simp] theorem refuse_rxOvf (e : RefuseReason) (s : State) : (refuse e s).rxOvf = s.rxOvf := rfl
@[simp] theorem refuse_isr (e : RefuseReason) (s : State) : (refuse e s).isr = s.isr := rfl
@[simp] theorem refuse_txByte (e : RefuseReason) (s : State) : (refuse e s).txByte = s.txByte := rfl
@[simp] theorem refuse_rxByte (e : RefuseReason) (s : State) : (refuse e s).rxByte = s.rxByte := rfl
@[simp] theorem refuse_wireOut (e : RefuseReason) (s : State) : (refuse e s).wireOut = s.wireOut := rfl
@[simp] theorem refuse_poll (e : RefuseReason) (s : State) : (refuse e s).poll = s.poll := rfl
@[simp] theorem refuse_faults (e : RefuseReason) (s : State) : (refuse e s).faults = s.faults := rfl
@[simp] theorem refuse_refused (e : RefuseReason) (s : State) : (refuse e s).refused = true := rfl
@[simp] theorem refuse_rdata (e : RefuseReason) (s : State) : (refuse e s).rdata = s.rdata := rfl
@[simp] theorem refuse_returns (e : RefuseReason) (s : State) : (refuse e s).returns = s.returns := rfl
@[simp] theorem refuse_program (e : RefuseReason) (s : State) : (refuse e s).program = s.program := rfl
@[simp] theorem refuse_turns (e : RefuseReason) (s : State) : (refuse e s).turns = s.turns := rfl
@[simp] theorem refuse_draws (e : RefuseReason) (s : State) : (refuse e s).draws = s.draws := rfl

@[simp] theorem raiseIrq_control (k : IrqSource) (s : State) : (raiseIrq k s).control = s.control := rfl
@[simp] theorem raiseIrq_bauddiv (k : IrqSource) (s : State) : (raiseIrq k s).bauddiv = s.bauddiv := rfl
@[simp] theorem raiseIrq_txFull (k : IrqSource) (s : State) : (raiseIrq k s).txFull = s.txFull := rfl
@[simp] theorem raiseIrq_rxFull (k : IrqSource) (s : State) : (raiseIrq k s).rxFull = s.rxFull := rfl
@[simp] theorem raiseIrq_txOvf (k : IrqSource) (s : State) : (raiseIrq k s).txOvf = s.txOvf := rfl
@[simp] theorem raiseIrq_rxOvf (k : IrqSource) (s : State) : (raiseIrq k s).rxOvf = s.rxOvf := rfl
@[simp] theorem raiseIrq_isr (k : IrqSource) (s : State) :
    (raiseIrq k s).isr =
      bif s.control.getLsbD (irqEnableBit k) then s.isr ||| (1#4 <<< irqStatusBit k) else s.isr := rfl
@[simp] theorem raiseIrq_txByte (k : IrqSource) (s : State) : (raiseIrq k s).txByte = s.txByte := rfl
@[simp] theorem raiseIrq_rxByte (k : IrqSource) (s : State) : (raiseIrq k s).rxByte = s.rxByte := rfl
@[simp] theorem raiseIrq_wireOut (k : IrqSource) (s : State) : (raiseIrq k s).wireOut = s.wireOut := rfl
@[simp] theorem raiseIrq_poll (k : IrqSource) (s : State) : (raiseIrq k s).poll = s.poll := rfl
@[simp] theorem raiseIrq_faults (k : IrqSource) (s : State) : (raiseIrq k s).faults = s.faults := rfl
@[simp] theorem raiseIrq_refused (k : IrqSource) (s : State) : (raiseIrq k s).refused = s.refused := rfl
@[simp] theorem raiseIrq_rdata (k : IrqSource) (s : State) : (raiseIrq k s).rdata = s.rdata := rfl
@[simp] theorem raiseIrq_returns (k : IrqSource) (s : State) : (raiseIrq k s).returns = s.returns := rfl
@[simp] theorem raiseIrq_program (k : IrqSource) (s : State) : (raiseIrq k s).program = s.program := rfl
@[simp] theorem raiseIrq_turns (k : IrqSource) (s : State) : (raiseIrq k s).turns = s.turns := rfl
@[simp] theorem raiseIrq_draws (k : IrqSource) (s : State) : (raiseIrq k s).draws = s.draws := rfl

@[simp] theorem disturbWhen_control (d : Bool) (s : State) : (disturbWhen d s).control = s.control := rfl
@[simp] theorem disturbWhen_bauddiv (d : Bool) (s : State) : (disturbWhen d s).bauddiv = s.bauddiv := rfl
@[simp] theorem disturbWhen_txFull (d : Bool) (s : State) : (disturbWhen d s).txFull = s.txFull := rfl
@[simp] theorem disturbWhen_rxFull (d : Bool) (s : State) : (disturbWhen d s).rxFull = s.rxFull := rfl
@[simp] theorem disturbWhen_txOvf (d : Bool) (s : State) : (disturbWhen d s).txOvf = s.txOvf := rfl
@[simp] theorem disturbWhen_rxOvf (d : Bool) (s : State) : (disturbWhen d s).rxOvf = s.rxOvf := rfl
@[simp] theorem disturbWhen_isr (d : Bool) (s : State) : (disturbWhen d s).isr = s.isr := rfl
@[simp] theorem disturbWhen_txByte (d : Bool) (s : State) : (disturbWhen d s).txByte = s.txByte := rfl
@[simp] theorem disturbWhen_rxByte (d : Bool) (s : State) : (disturbWhen d s).rxByte = s.rxByte := rfl
@[simp] theorem disturbWhen_wireOut (d : Bool) (s : State) :
    (disturbWhen d s).wireOut =
      bif d && !Config.disturbKeeps s.draws then replaceLast (Config.freeByte s.draws) s.wireOut else s.wireOut := rfl
@[simp] theorem disturbWhen_poll (d : Bool) (s : State) : (disturbWhen d s).poll = s.poll := rfl
@[simp] theorem disturbWhen_faults (d : Bool) (s : State) : (disturbWhen d s).faults = s.faults := rfl
@[simp] theorem disturbWhen_refused (d : Bool) (s : State) : (disturbWhen d s).refused = s.refused := rfl
@[simp] theorem disturbWhen_rdata (d : Bool) (s : State) : (disturbWhen d s).rdata = s.rdata := rfl
@[simp] theorem disturbWhen_returns (d : Bool) (s : State) : (disturbWhen d s).returns = s.returns := rfl
@[simp] theorem disturbWhen_program (d : Bool) (s : State) : (disturbWhen d s).program = s.program := rfl
@[simp] theorem disturbWhen_turns (d : Bool) (s : State) : (disturbWhen d s).turns = s.turns := rfl
@[simp] theorem disturbWhen_draws (d : Bool) (s : State) :
    (disturbWhen d s).draws =
      bif d then s.draws + 1 else s.draws := rfl

@[simp] theorem consumeByte_control (s : State) : (consumeByte s).control = s.control := rfl
@[simp] theorem consumeByte_bauddiv (s : State) : (consumeByte s).bauddiv = s.bauddiv := rfl
@[simp] theorem consumeByte_txFull (s : State) : (consumeByte s).txFull = s.txFull := rfl
@[simp] theorem consumeByte_rxFull (s : State) : (consumeByte s).rxFull = false := rfl
@[simp] theorem consumeByte_txOvf (s : State) : (consumeByte s).txOvf = s.txOvf := rfl
@[simp] theorem consumeByte_rxOvf (s : State) : (consumeByte s).rxOvf = s.rxOvf := rfl
@[simp] theorem consumeByte_isr (s : State) : (consumeByte s).isr = s.isr := rfl
@[simp] theorem consumeByte_txByte (s : State) : (consumeByte s).txByte = s.txByte := rfl
@[simp] theorem consumeByte_rxByte (s : State) : (consumeByte s).rxByte = s.rxByte := rfl
@[simp] theorem consumeByte_wireOut (s : State) : (consumeByte s).wireOut = s.wireOut := rfl
@[simp] theorem consumeByte_poll (s : State) : (consumeByte s).poll = s.poll := rfl
@[simp] theorem consumeByte_faults (s : State) : (consumeByte s).faults = s.faults := rfl
@[simp] theorem consumeByte_refused (s : State) : (consumeByte s).refused = s.refused := rfl
@[simp] theorem consumeByte_rdata (s : State) : (consumeByte s).rdata = s.rdata := rfl
@[simp] theorem consumeByte_returns (s : State) : (consumeByte s).returns = s.returns := rfl
@[simp] theorem consumeByte_program (s : State) : (consumeByte s).program = s.program := rfl
@[simp] theorem consumeByte_turns (s : State) : (consumeByte s).turns = s.turns := rfl
@[simp] theorem consumeByte_draws (s : State) :
    (consumeByte s).draws =
      bif s.rxByte.isNone then s.draws + 1 else s.draws := rfl

@[simp] theorem storeControl_control (c : BitVec 7) (s : State) : (storeControl c s).control = c := rfl
@[simp] theorem storeControl_bauddiv (c : BitVec 7) (s : State) : (storeControl c s).bauddiv = s.bauddiv := rfl
@[simp] theorem storeControl_txFull (c : BitVec 7) (s : State) : (storeControl c s).txFull = s.txFull := rfl
@[simp] theorem storeControl_rxFull (c : BitVec 7) (s : State) : (storeControl c s).rxFull = s.rxFull := rfl
@[simp] theorem storeControl_txOvf (c : BitVec 7) (s : State) : (storeControl c s).txOvf = s.txOvf := rfl
@[simp] theorem storeControl_rxOvf (c : BitVec 7) (s : State) : (storeControl c s).rxOvf = s.rxOvf := rfl
@[simp] theorem storeControl_isr (c : BitVec 7) (s : State) : (storeControl c s).isr = s.isr := rfl
@[simp] theorem storeControl_txByte (c : BitVec 7) (s : State) : (storeControl c s).txByte = s.txByte := rfl
@[simp] theorem storeControl_rxByte (c : BitVec 7) (s : State) : (storeControl c s).rxByte = s.rxByte := rfl
@[simp] theorem storeControl_wireOut (c : BitVec 7) (s : State) : (storeControl c s).wireOut = s.wireOut := rfl
@[simp] theorem storeControl_poll (c : BitVec 7) (s : State) : (storeControl c s).poll = s.poll := rfl
@[simp] theorem storeControl_faults (c : BitVec 7) (s : State) : (storeControl c s).faults = s.faults := rfl
@[simp] theorem storeControl_refused (c : BitVec 7) (s : State) : (storeControl c s).refused = s.refused := rfl
@[simp] theorem storeControl_rdata (c : BitVec 7) (s : State) : (storeControl c s).rdata = s.rdata := rfl
@[simp] theorem storeControl_returns (c : BitVec 7) (s : State) : (storeControl c s).returns = s.returns := rfl
@[simp] theorem storeControl_program (c : BitVec 7) (s : State) : (storeControl c s).program = s.program := rfl
@[simp] theorem storeControl_turns (c : BitVec 7) (s : State) : (storeControl c s).turns = s.turns := rfl
@[simp] theorem storeControl_draws (c : BitVec 7) (s : State) : (storeControl c s).draws = s.draws := rfl

@[simp] theorem storeDivisor_control (d : Word) (s : State) : (storeDivisor d s).control = s.control := rfl
@[simp] theorem storeDivisor_bauddiv (d : Word) (s : State) : (storeDivisor d s).bauddiv = d := rfl
@[simp] theorem storeDivisor_txFull (d : Word) (s : State) : (storeDivisor d s).txFull = s.txFull := rfl
@[simp] theorem storeDivisor_rxFull (d : Word) (s : State) : (storeDivisor d s).rxFull = s.rxFull := rfl
@[simp] theorem storeDivisor_txOvf (d : Word) (s : State) : (storeDivisor d s).txOvf = s.txOvf := rfl
@[simp] theorem storeDivisor_rxOvf (d : Word) (s : State) : (storeDivisor d s).rxOvf = s.rxOvf := rfl
@[simp] theorem storeDivisor_isr (d : Word) (s : State) : (storeDivisor d s).isr = s.isr := rfl
@[simp] theorem storeDivisor_txByte (d : Word) (s : State) : (storeDivisor d s).txByte = s.txByte := rfl
@[simp] theorem storeDivisor_rxByte (d : Word) (s : State) : (storeDivisor d s).rxByte = s.rxByte := rfl
@[simp] theorem storeDivisor_wireOut (d : Word) (s : State) : (storeDivisor d s).wireOut = s.wireOut := rfl
@[simp] theorem storeDivisor_poll (d : Word) (s : State) : (storeDivisor d s).poll = s.poll := rfl
@[simp] theorem storeDivisor_faults (d : Word) (s : State) : (storeDivisor d s).faults = s.faults := rfl
@[simp] theorem storeDivisor_refused (d : Word) (s : State) : (storeDivisor d s).refused = s.refused := rfl
@[simp] theorem storeDivisor_rdata (d : Word) (s : State) : (storeDivisor d s).rdata = s.rdata := rfl
@[simp] theorem storeDivisor_returns (d : Word) (s : State) : (storeDivisor d s).returns = s.returns := rfl
@[simp] theorem storeDivisor_program (d : Word) (s : State) : (storeDivisor d s).program = s.program := rfl
@[simp] theorem storeDivisor_turns (d : Word) (s : State) : (storeDivisor d s).turns = s.turns := rfl
@[simp] theorem storeDivisor_draws (d : Word) (s : State) : (storeDivisor d s).draws = s.draws := rfl

@[simp] theorem clearIsrOnRead_control (s : State) : (clearIsrOnRead s).control = s.control := rfl
@[simp] theorem clearIsrOnRead_bauddiv (s : State) : (clearIsrOnRead s).bauddiv = s.bauddiv := rfl
@[simp] theorem clearIsrOnRead_txFull (s : State) : (clearIsrOnRead s).txFull = s.txFull := rfl
@[simp] theorem clearIsrOnRead_rxFull (s : State) : (clearIsrOnRead s).rxFull = s.rxFull := rfl
@[simp] theorem clearIsrOnRead_txOvf (s : State) : (clearIsrOnRead s).txOvf = s.txOvf := rfl
@[simp] theorem clearIsrOnRead_rxOvf (s : State) : (clearIsrOnRead s).rxOvf = s.rxOvf := rfl
@[simp] theorem clearIsrOnRead_isr (s : State) : (clearIsrOnRead s).isr = 0#4 := rfl
@[simp] theorem clearIsrOnRead_txByte (s : State) : (clearIsrOnRead s).txByte = s.txByte := rfl
@[simp] theorem clearIsrOnRead_rxByte (s : State) : (clearIsrOnRead s).rxByte = s.rxByte := rfl
@[simp] theorem clearIsrOnRead_wireOut (s : State) : (clearIsrOnRead s).wireOut = s.wireOut := rfl
@[simp] theorem clearIsrOnRead_poll (s : State) : (clearIsrOnRead s).poll = s.poll := rfl
@[simp] theorem clearIsrOnRead_faults (s : State) : (clearIsrOnRead s).faults = s.faults := rfl
@[simp] theorem clearIsrOnRead_refused (s : State) : (clearIsrOnRead s).refused = s.refused := rfl
@[simp] theorem clearIsrOnRead_rdata (s : State) : (clearIsrOnRead s).rdata = s.rdata := rfl
@[simp] theorem clearIsrOnRead_returns (s : State) : (clearIsrOnRead s).returns = s.returns := rfl
@[simp] theorem clearIsrOnRead_program (s : State) : (clearIsrOnRead s).program = s.program := rfl
@[simp] theorem clearIsrOnRead_turns (s : State) : (clearIsrOnRead s).turns = s.turns := rfl
@[simp] theorem clearIsrOnRead_draws (s : State) : (clearIsrOnRead s).draws = s.draws := rfl

@[simp] theorem acceptByte_control (c : Byte) (s : State) : (acceptByte c s).control = s.control := rfl
@[simp] theorem acceptByte_bauddiv (c : Byte) (s : State) : (acceptByte c s).bauddiv = s.bauddiv := rfl
@[simp] theorem acceptByte_txFull (c : Byte) (s : State) : (acceptByte c s).txFull = true := rfl
@[simp] theorem acceptByte_rxFull (c : Byte) (s : State) : (acceptByte c s).rxFull = s.rxFull := rfl
@[simp] theorem acceptByte_txOvf (c : Byte) (s : State) : (acceptByte c s).txOvf = s.txOvf := rfl
@[simp] theorem acceptByte_rxOvf (c : Byte) (s : State) : (acceptByte c s).rxOvf = s.rxOvf := rfl
@[simp] theorem acceptByte_isr (c : Byte) (s : State) : (acceptByte c s).isr = s.isr := rfl
@[simp] theorem acceptByte_txByte (c : Byte) (s : State) : (acceptByte c s).txByte = c := rfl
@[simp] theorem acceptByte_rxByte (c : Byte) (s : State) : (acceptByte c s).rxByte = s.rxByte := rfl
@[simp] theorem acceptByte_wireOut (c : Byte) (s : State) : (acceptByte c s).wireOut = s.wireOut := rfl
@[simp] theorem acceptByte_poll (c : Byte) (s : State) : (acceptByte c s).poll = s.poll := rfl
@[simp] theorem acceptByte_faults (c : Byte) (s : State) : (acceptByte c s).faults = s.faults := rfl
@[simp] theorem acceptByte_refused (c : Byte) (s : State) : (acceptByte c s).refused = s.refused := rfl
@[simp] theorem acceptByte_rdata (c : Byte) (s : State) : (acceptByte c s).rdata = s.rdata := rfl
@[simp] theorem acceptByte_returns (c : Byte) (s : State) : (acceptByte c s).returns = s.returns := rfl
@[simp] theorem acceptByte_program (c : Byte) (s : State) : (acceptByte c s).program = s.program := rfl
@[simp] theorem acceptByte_turns (c : Byte) (s : State) : (acceptByte c s).turns = s.turns := rfl
@[simp] theorem acceptByte_draws (c : Byte) (s : State) : (acceptByte c s).draws = s.draws := rfl

@[simp] theorem pushOps_control (ops : List HostOp) (s : State) : (pushOps ops s).control = s.control := rfl
@[simp] theorem pushOps_bauddiv (ops : List HostOp) (s : State) : (pushOps ops s).bauddiv = s.bauddiv := rfl
@[simp] theorem pushOps_txFull (ops : List HostOp) (s : State) : (pushOps ops s).txFull = s.txFull := rfl
@[simp] theorem pushOps_rxFull (ops : List HostOp) (s : State) : (pushOps ops s).rxFull = s.rxFull := rfl
@[simp] theorem pushOps_txOvf (ops : List HostOp) (s : State) : (pushOps ops s).txOvf = s.txOvf := rfl
@[simp] theorem pushOps_rxOvf (ops : List HostOp) (s : State) : (pushOps ops s).rxOvf = s.rxOvf := rfl
@[simp] theorem pushOps_isr (ops : List HostOp) (s : State) : (pushOps ops s).isr = s.isr := rfl
@[simp] theorem pushOps_txByte (ops : List HostOp) (s : State) : (pushOps ops s).txByte = s.txByte := rfl
@[simp] theorem pushOps_rxByte (ops : List HostOp) (s : State) : (pushOps ops s).rxByte = s.rxByte := rfl
@[simp] theorem pushOps_wireOut (ops : List HostOp) (s : State) : (pushOps ops s).wireOut = s.wireOut := rfl
@[simp] theorem pushOps_poll (ops : List HostOp) (s : State) : (pushOps ops s).poll = s.poll := rfl
@[simp] theorem pushOps_faults (ops : List HostOp) (s : State) : (pushOps ops s).faults = s.faults := rfl
@[simp] theorem pushOps_refused (ops : List HostOp) (s : State) : (pushOps ops s).refused = s.refused := rfl
@[simp] theorem pushOps_rdata (ops : List HostOp) (s : State) : (pushOps ops s).rdata = s.rdata := rfl
@[simp] theorem pushOps_returns (ops : List HostOp) (s : State) : (pushOps ops s).returns = s.returns := rfl
@[simp] theorem pushOps_program (ops : List HostOp) (s : State) : (pushOps ops s).program = ops ++ s.program := rfl
@[simp] theorem pushOps_turns (ops : List HostOp) (s : State) : (pushOps ops s).turns = s.turns := rfl
@[simp] theorem pushOps_draws (ops : List HostOp) (s : State) : (pushOps ops s).draws = s.draws := rfl

@[simp] theorem returnByte_control (b : Byte) (s : State) : (returnByte b s).control = s.control := rfl
@[simp] theorem returnByte_bauddiv (b : Byte) (s : State) : (returnByte b s).bauddiv = s.bauddiv := rfl
@[simp] theorem returnByte_txFull (b : Byte) (s : State) : (returnByte b s).txFull = s.txFull := rfl
@[simp] theorem returnByte_rxFull (b : Byte) (s : State) : (returnByte b s).rxFull = s.rxFull := rfl
@[simp] theorem returnByte_txOvf (b : Byte) (s : State) : (returnByte b s).txOvf = s.txOvf := rfl
@[simp] theorem returnByte_rxOvf (b : Byte) (s : State) : (returnByte b s).rxOvf = s.rxOvf := rfl
@[simp] theorem returnByte_isr (b : Byte) (s : State) : (returnByte b s).isr = s.isr := rfl
@[simp] theorem returnByte_txByte (b : Byte) (s : State) : (returnByte b s).txByte = s.txByte := rfl
@[simp] theorem returnByte_rxByte (b : Byte) (s : State) : (returnByte b s).rxByte = s.rxByte := rfl
@[simp] theorem returnByte_wireOut (b : Byte) (s : State) : (returnByte b s).wireOut = s.wireOut := rfl
@[simp] theorem returnByte_poll (b : Byte) (s : State) : (returnByte b s).poll = s.poll := rfl
@[simp] theorem returnByte_faults (b : Byte) (s : State) : (returnByte b s).faults = s.faults := rfl
@[simp] theorem returnByte_refused (b : Byte) (s : State) : (returnByte b s).refused = s.refused := rfl
@[simp] theorem returnByte_rdata (b : Byte) (s : State) : (returnByte b s).rdata = s.rdata := rfl
@[simp] theorem returnByte_returns (b : Byte) (s : State) :
    (returnByte b s).returns =
      s.returns ++ [b.setWidth 32] := rfl
@[simp] theorem returnByte_program (b : Byte) (s : State) : (returnByte b s).program = s.program := rfl
@[simp] theorem returnByte_turns (b : Byte) (s : State) : (returnByte b s).turns = s.turns := rfl
@[simp] theorem returnByte_draws (b : Byte) (s : State) : (returnByte b s).draws = s.draws := rfl


@[simp] theorem turnTaken_control (s : State) : (turnTaken s).control = s.control := by
  rcases s with ⟨_, _, _, _, _, _, _, _, _, _, _, _, _, _, _, _, _ | _, _⟩ <;> rfl
@[simp] theorem turnTaken_bauddiv (s : State) : (turnTaken s).bauddiv = s.bauddiv := by
  rcases s with ⟨_, _, _, _, _, _, _, _, _, _, _, _, _, _, _, _, _ | _, _⟩ <;> rfl
@[simp] theorem turnTaken_txFull (s : State) : (turnTaken s).txFull = s.txFull := by
  rcases s with ⟨_, _, _, _, _, _, _, _, _, _, _, _, _, _, _, _, _ | _, _⟩ <;> rfl
@[simp] theorem turnTaken_rxFull (s : State) : (turnTaken s).rxFull = s.rxFull := by
  rcases s with ⟨_, _, _, _, _, _, _, _, _, _, _, _, _, _, _, _, _ | _, _⟩ <;> rfl
@[simp] theorem turnTaken_txOvf (s : State) : (turnTaken s).txOvf = s.txOvf := by
  rcases s with ⟨_, _, _, _, _, _, _, _, _, _, _, _, _, _, _, _, _ | _, _⟩ <;> rfl
@[simp] theorem turnTaken_rxOvf (s : State) : (turnTaken s).rxOvf = s.rxOvf := by
  rcases s with ⟨_, _, _, _, _, _, _, _, _, _, _, _, _, _, _, _, _ | _, _⟩ <;> rfl
@[simp] theorem turnTaken_isr (s : State) : (turnTaken s).isr = s.isr := by
  rcases s with ⟨_, _, _, _, _, _, _, _, _, _, _, _, _, _, _, _, _ | _, _⟩ <;> rfl
@[simp] theorem turnTaken_txByte (s : State) : (turnTaken s).txByte = s.txByte := by
  rcases s with ⟨_, _, _, _, _, _, _, _, _, _, _, _, _, _, _, _, _ | _, _⟩ <;> rfl
@[simp] theorem turnTaken_rxByte (s : State) : (turnTaken s).rxByte = s.rxByte := by
  rcases s with ⟨_, _, _, _, _, _, _, _, _, _, _, _, _, _, _, _, _ | _, _⟩ <;> rfl
@[simp] theorem turnTaken_wireOut (s : State) : (turnTaken s).wireOut = s.wireOut := by
  rcases s with ⟨_, _, _, _, _, _, _, _, _, _, _, _, _, _, _, _, _ | _, _⟩ <;> rfl
@[simp] theorem turnTaken_poll (s : State) : (turnTaken s).poll = s.poll := by
  rcases s with ⟨_, _, _, _, _, _, _, _, _, _, _, _, _, _, _, _, _ | _, _⟩ <;> rfl
@[simp] theorem turnTaken_faults (s : State) : (turnTaken s).faults = s.faults := by
  rcases s with ⟨_, _, _, _, _, _, _, _, _, _, _, _, _, _, _, _, _ | _, _⟩ <;> rfl
@[simp] theorem turnTaken_refused (s : State) : (turnTaken s).refused = s.refused := by
  rcases s with ⟨_, _, _, _, _, _, _, _, _, _, _, _, _, _, _, _, _ | _, _⟩ <;> rfl
@[simp] theorem turnTaken_rdata (s : State) : (turnTaken s).rdata = s.rdata := by
  rcases s with ⟨_, _, _, _, _, _, _, _, _, _, _, _, _, _, _, _, _ | _, _⟩ <;> rfl
@[simp] theorem turnTaken_returns (s : State) : (turnTaken s).returns = s.returns := by
  rcases s with ⟨_, _, _, _, _, _, _, _, _, _, _, _, _, _, _, _, _ | _, _⟩ <;> rfl
@[simp] theorem turnTaken_program (s : State) : (turnTaken s).program = s.program := by
  rcases s with ⟨_, _, _, _, _, _, _, _, _, _, _, _, _, _, _, _, _ | _, _⟩ <;> rfl
@[simp] theorem turnTaken_turns (s : State) : (turnTaken s).turns = s.turns.tail := by
  rcases s with ⟨_, _, _, _, _, _, _, _, _, _, _, _, _, _, _, _, _ | _, _⟩ <;> rfl
@[simp] theorem turnTaken_draws (s : State) : (turnTaken s).draws = if s.turns = [] then s.draws + 1 else s.draws := by
  rcases s with ⟨_, _, _, _, _, _, _, _, _, _, _, _, _, _, _, _, _ | _, _⟩ <;> rfl

end Sys2Proof.Machine
end

