-- ==== Sys2Proof/Laws/Ops.lean ====
section
/-! SUPPORT. What each shared operation can do, said once: the interrupt event, the stored divisor, the frame in flight, the
outcome of a step. -/

namespace Sys2Proof.Machine

open Sys2Proof

/-- The event of a source sets its own bit, when its enable is 1, and no other (10_state.md R28). -/
theorem raiseIrq_isr_getLsbD (k : IrqSource) (s : State) (j : Nat) :
    (raiseIrq k s).isr.getLsbD j =
      (s.isr.getLsbD j || (s.control.getLsbD (irqEnableBit k) && j == irqStatusBit k)) := by
  by_cases hj : j < 4
  · have hj' : j = 0 ∨ j = 1 ∨ j = 2 ∨ j = 3 := by omega
    cases k <;> cases h : s.control.getLsbD (irqEnableBit _) <;> rcases hj' with rfl | rfl | rfl | rfl <;>
      simp_all [irqStatusBit, irqEnableBit]
  · have hne : j ≠ irqStatusBit k := by cases k <;> simp [irqStatusBit] <;> omega
    simp [BitVec.getLsbD_of_ge _ _ (Nat.le_of_not_lt hj), hne]

/-- The bits of the `state` view (10_state.md R17). -/
theorem stateWord_getLsbD (s : State) (k : Nat) :
    (stateWord s).getLsbD k =
      match k with
      | 0 => s.txFull
      | 1 => s.rxFull
      | 2 => s.txOvf
      | 3 => s.rxOvf
      | _ + 4 => false := by
  unfold stateWord
  rcases k with _ | _ | _ | _ | k
  · cases s.txFull <;> cases s.rxFull <;> cases s.txOvf <;> cases s.rxOvf <;> rfl
  · cases s.txFull <;> cases s.rxFull <;> cases s.txOvf <;> cases s.rxOvf <;> rfl
  · cases s.txFull <;> cases s.rxFull <;> cases s.txOvf <;> cases s.rxOvf <;> rfl
  · cases s.txFull <;> cases s.rxFull <;> cases s.txOvf <;> cases s.rxOvf <;> rfl
  · rw [BitVec.getLsbD_setWidth, BitVec.getLsbD_of_ge _ _ (by omega), Bool.and_false]

/-- A byte zero-extended has no bit at or above 8 (30_encoding.md R60). -/
theorem dataWord_getLsbD_of_le (b : Byte) (k : Nat) (h : 8 ≤ k) : (dataWord b).getLsbD k = false := by
  rw [dataWord, BitVec.getLsbD_setWidth, BitVec.getLsbD_of_ge b k h, Bool.and_false]

/-- The recorded hazard, as the condition of 40_register_access.md R81 puts it. -/
theorem append_hazardOf (s : State) :
    s.faults ++ hazardOf s.poll = if s.poll = .stale then s.faults ++ [.hazardStaleStatus] else s.faults := by
  cases s.poll <;> simp [hazardOf]

/-- What a register write makes of the poll, as 40_register_access.md R81 puts it. -/
theorem afterWrite_eq (p : PollStatus) : p.afterWrite = if p = .fresh then .stale else p := by cases p <;> rfl

theorem afterWrite_afterWrite (p : PollStatus) : p.afterWrite.afterWrite = p.afterWrite := by cases p <;> rfl

theorem dataBits_eq_setWidth (v : Word) : dataBits v = v.setWidth 8 := by
  apply BitVec.eq_of_getLsbD_eq
  intro k hk
  simp [dataBits, hk]

theorem controlBits_eq_setWidth (v : Word) : controlBits v = v.setWidth 7 := by
  apply BitVec.eq_of_getLsbD_eq
  intro k hk
  simp [controlBits, hk]

theorem lowBits_getLsbD (width : Nat) (v : Word) (k : Nat) :
    (lowBits width v).getLsbD k = (decide (k < width) && v.getLsbD k) := by
  by_cases h : k < 32
  · simp [lowBits, BitVec.getLsbD_setWidth, h]
  · simp [lowBits, BitVec.getLsbD_of_ge _ _ (Nat.le_of_not_lt h)]

/-- Storing a stored divisor changes nothing. -/
theorem lowBits_lowBits (width : Nat) (v : Word) : lowBits width (lowBits width v) = lowBits width v := by
  apply BitVec.eq_of_getLsbD_eq
  intro k _
  simp [lowBits_getLsbD]

/-- A stored divisor has no bit at or above `BAUDDIV_WIDTH`. -/
theorem divisorBits_getLsbD_of_le (v : Word) (k : Nat) (h : Config.bauddivWidth ≤ k) :
    (divisorBits v).getLsbD k = false := by
  simp [divisorBits, lowBits_getLsbD, Nat.not_lt.mpr h]

/-- Replacing the last byte leaves the earlier ones (41_line_engines.md R94). -/
theorem replaceLast_append (b x : Byte) (l : List Byte) : replaceLast b (l ++ [x]) = l ++ [b] := by
  induction l with
  | nil => rfl
  | cons y l ih => cases l with
    | nil => rfl
    | cons z l => simpa [replaceLast] using ih

theorem replaceLast_nil (b : Byte) : replaceLast b [] = [] := rfl

/-- Where nothing disturbs the frame in flight, nothing changes. -/
@[simp] theorem disturbWhen_false (s : State) : disturbWhen false s = s := rfl

/-- The frame in flight is kept or replaced by the draw, as the free choice says (41_line_engines.md R94). -/
theorem disturbWhen_true_keptOrLastReplaced (s : State) :
    KeptOrLastReplaced (Config.disturbKeeps s.draws) (Config.freeByte s.draws) s.wireOut (disturbWhen true s).wireOut := by
  rw [disturbWhen_wireOut]
  refine ⟨fun h => by rw [h]; rfl, fun h => ?_⟩
  rw [h]
  rcases List.eq_nil_or_concat s.wireOut with hnil | ⟨l, x, hx⟩
  · rw [hnil]
    exact .inl ⟨rfl, rfl⟩
  · rw [hx, List.concat_eq_append]
    exact .inr ⟨l, x, rfl, replaceLast_append _ _ _⟩

theorem length_replaceLast (b : Byte) (l : List Byte) : (replaceLast b l).length = l.length := by
  rcases List.eq_nil_or_concat l with rfl | ⟨l, x, rfl⟩
  · rfl
  · simp [replaceLast_append]

theorem dropLast_replaceLast (b : Byte) (l : List Byte) : (replaceLast b l).dropLast = l.dropLast := by
  rcases List.eq_nil_or_concat l with rfl | ⟨l, x, rfl⟩
  · rfl
  · simp [replaceLast_append]

/-- A disturbed wire has as many bytes as before. -/
theorem length_disturbWhen (d : Bool) (s : State) : (disturbWhen d s).wireOut.length = s.wireOut.length := by
  rw [disturbWhen_wireOut]
  cases d && !Config.disturbKeeps s.draws <;> simp [length_replaceLast]

/-- A disturbed wire has the same earlier bytes. -/
theorem dropLast_disturbWhen (d : Bool) (s : State) : (disturbWhen d s).wireOut.dropLast = s.wireOut.dropLast := by
  rw [disturbWhen_wireOut]
  cases d && !Config.disturbKeeps s.draws <;> simp [dropLast_replaceLast]

/-- What a step can do: one case for each kind of turn. -/
theorem step_cases {s t : State} (h : step s = .next t) :
    (nextTurn s = .host ∧ hostTurn (turnTaken s) = .next t) ∨
      (nextTurn s = .transmitter ∧ t = txStep (turnTaken s)) ∨
      (∃ b, nextTurn s = .receiver b ∧ t = rxStep b (turnTaken s)) ∨
      (nextTurn s = .reset ∧ t = platformReset (turnTaken s)) := by
  unfold step at h
  cases hturn : nextTurn s <;> rw [hturn] at h <;> simp only [runTurn, Host.Outcome.next.injEq] at h
  · exact .inl ⟨rfl, h⟩
  · exact .inr (.inl ⟨rfl, h.symm⟩)
  · exact .inr (.inr (.inl ⟨_, rfl, h.symm⟩))
  · exact .inr (.inr (.inr ⟨rfl, h.symm⟩))

/-- A listed turn is the one that runs. -/
theorem step_of_listed_turn {s : State} {t : Turn} {ts : List Turn} (h : s.turns = t :: ts) :
    step s = runTurn t { s with turns := ts } := by
  simp [step, nextTurn, turnTaken, h]

/-- With its program ended, the host's turn changes nothing (70_reset_and_hazards.md R138). -/
theorem hostTurn_nil {s : State} (h : s.program = []) : hostTurn s = .next s := by
  simp [hostTurn, h]

/-- The host's turn runs its next operation. -/
theorem hostTurn_cons {s : State} {op : HostOp} {rest : List HostOp} (h : s.program = op :: rest) :
    hostTurn s = runHostOp op { s with program := rest } := by
  simp [hostTurn, h]

/-- The next operation of the host, on a listed turn of its own. -/
theorem step_host_op {s : State} {op : HostOp} {ts : List Turn} {rest : List HostOp} (hturn : s.turns = .host :: ts)
    (hop : s.program = op :: rest) : step s = runHostOp op { s with turns := ts, program := rest } := by
  rw [step_of_listed_turn hturn]
  simp [runTurn, hostTurn, hop]

end Sys2Proof.Machine
end

