-- ==== Sys2Proof/Laws/Driver.lean ====
section
/-! SUPPORT. What the driver's handle at `UART_BASE` does, and what a turn of each driver call does on it, said once. -/

namespace Sys2Proof.Machine

open Sys2Proof

/-- The registers' addresses do not wrap (log entry 9). -/
theorem toNat_uartBase_add {off : Word} (h : off.toNat ≤ 0x10) :
    (Config.uartBase + off).toNat = Config.uartBase.toNat + off.toNat := by
  have hindex := Config.uartBaseIndex.isLt
  have hbase : Config.uartBase.toNat = 4 * Config.uartBaseIndex.val := by
    rw [Config.uartBase, BitVec.toNat_ofNat, Nat.mod_eq_of_lt (by omega)]
  rw [BitVec.toNat_add, Nat.mod_eq_of_lt (by omega)]

/-- A register's address is in the window, at the register's offset. -/
theorem busOffset_uartBase_add {off : Word} (h : off.toNat ≤ 0x10) : busOffset (Config.uartBase + off) = some off := by
  have hsum := toNat_uartBase_add h
  have hsub : Config.uartBase + off - Config.uartBase = off := by rw [BitVec.add_comm, BitVec.add_sub_cancel]
  rw [busOffset, if_pos ⟨by omega, by unfold Config.uartWindowBytes; omega⟩, hsub]

/-- A word read through the handle is the bus read at that offset. -/
theorem uartHandle_read {off : Word} (h : off.toNat ≤ 0x10) (s : State) :
    uartHandle.read (uartHandle.base + off) s = busAccess ⟨false, off, 4, 0#32⟩ s := by
  simp only [uartHandle, memAccess, busOffset_uartBase_add h]

/-- A word write through the handle is the bus write at that offset. -/
theorem uartHandle_write {off : Word} (h : off.toNat ≤ 0x10) (v : Word) (s : State) :
    uartHandle.write (uartHandle.base + off) v s = busAccess ⟨true, off, 4, v⟩ s := by
  simp only [uartHandle, memAccess, busOffset_uartBase_add h]

theorem uartHandle_read_state (s : State) : uartHandle.read (uartHandle.base + 0x04#32) s = exec .rdState s := by
  rw [uartHandle_read (by decide)]
  rfl

theorem uartHandle_read_data (s : State) : uartHandle.read uartHandle.base s = exec .rdData s := by
  rw [← BitVec.add_zero uartHandle.base, uartHandle_read (by decide)]
  rfl

theorem uartHandle_write_data (v : Word) (s : State) : uartHandle.write uartHandle.base v s = exec (.wrData v) s := by
  rw [← BitVec.add_zero uartHandle.base, uartHandle_write (by decide)]
  rfl

theorem uartHandle_write_control (v : Word) (s : State) :
    uartHandle.write (uartHandle.base + 0x08#32) v s = exec (.wrControl v) s := by
  rw [uartHandle_write (by decide)]
  simp [busAccess, decode, decodeOffset]

theorem uartHandle_write_bauddiv (v : Word) (s : State) :
    uartHandle.write (uartHandle.base + 0x10#32) v s = exec (.wrBauddiv v) s := by
  rw [uartHandle_write (by decide)]
  simp [busAccess, decode, decodeOffset]

/-! What a turn leaves on the host's side. -/

@[simp] theorem applyRest_continues (left : List DriverCall) (s : State) :
    applyRest (.continues left) s = pushOps (left.map .call) s := rfl

@[simp] theorem applyRest_ends_none (s : State) : applyRest (.ends none) s = s := rfl

@[simp] theorem applyRest_ends_some (b : Byte) (s : State) : applyRest (.ends (some b)) s = returnByte b s := rfl

@[simp] theorem applyRest_refuses (e : RefuseReason) (s : State) : applyRest (.refuses e) s = refuse e s := rfl

/-- A turn whose access is a transaction. -/
theorem callTurn_of_access {c : DriverCall} {i : Instr} {rest : State → CallRest} {s : State}
    (h : driverTurn uartHandle c s = thenLeave (exec i s) rest) {t : State} (ht : exec i s = .next t) :
    callTurn uartHandle c s = .next (applyRest (rest t) t) := by
  rw [callTurn, h, ht]
  rfl

/-- A turn of each call on the handle, as its one transaction and what it leaves (42_driver.md R99 to R105). -/
theorem driverTurn_uartHandle (c : DriverCall) (s : State) :
    driverTurn uartHandle c s =
      match c with
      | .init r =>
        if r = 0 then .next (s, .refuses .divideByZero)
        else thenLeave (exec (.wrBauddiv (BitVec.ofNat 32 (divisorFor r))) s) fun _ => .continues [.initControl]
      | .initControl => thenLeave (exec (.wrControl 0x3#32) s) fun _ => .ends none
      | .putChar b =>
        thenLeave (exec .rdState s) fun _ =>
          .continues (if s.txFull = true then .waitTxReady :: afterFirstWait b else afterFirstWait b)
      | .getChar =>
        thenLeave (exec .rdState s) fun _ =>
          .continues (if s.rxFull = true then [.receiveByte] else [.waitRxReady, .receiveByte])
      | .waitTxReady =>
        thenLeave (exec .rdState s) fun _ => .continues (if s.txFull = true then [.waitTxReady] else [])
      | .waitRxReady =>
        thenLeave (exec .rdState s) fun _ => .continues (if s.rxFull = true then [] else [.waitRxReady])
      | .sendByte b returns =>
        thenLeave (exec (.wrData (b.setWidth 32)) s) fun _ => .ends (if returns = true then some b else none)
      | .receiveByte =>
        thenLeave (exec .rdData s) fun t => .continues [.putChar (carriageReturnToLineFeed (dataBits t.rdata))] := by
  have htx : (stateWord s).getLsbD txBufFullBit = s.txFull := stateWord_getLsbD s 0
  have hrx : (stateWord s).getLsbD rxBufFullBit = s.rxFull := stateWord_getLsbD s 1
  cases c with
  | init r => simp only [driverTurn, driverInit, uartHandle_write_bauddiv]
  | initControl => simp only [driverTurn, driverInitControl, uartHandle_write_control]
  | putChar b => rw [driverTurn, pollTxReady, uartHandle_read_state, ← htx]; rfl
  | getChar => rw [driverTurn, pollRxReady, uartHandle_read_state, ← hrx]; rfl
  | waitTxReady => rw [driverTurn, pollTxReady, uartHandle_read_state, ← htx]; rfl
  | waitRxReady => rw [driverTurn, pollRxReady, uartHandle_read_state, ← hrx]; rfl
  | sendByte b returns => simp only [driverTurn, driverSendByte, uartHandle_write_data]
  | receiveByte => simp only [driverTurn, driverReceiveByte, uartHandle_read_data]; rfl

/-- The divisor write of `INIT r`, and what it leaves. -/
theorem callTurn_init {r : Nat} {s t : State} (hr : r ≠ 0)
    (ht : exec (.wrBauddiv (BitVec.ofNat 32 (divisorFor r))) s = .next t) :
    callTurn uartHandle (.init r) s = .next (pushOps [.call .initControl] t) :=
  callTurn_of_access (rest := fun _ => .continues [.initControl])
    ((driverTurn_uartHandle (.init r) s).trans (if_neg hr)) ht

/-- The poll of each wait, and what it leaves. -/
theorem callTurn_waitTxReady (s : State) :
    callTurn uartHandle .waitTxReady s =
      .next
        (pushOps (if s.txFull = true then [.call .waitTxReady] else []) (afterPoll (returnWord (stateWord s) s))) := by
  rw [callTurn_of_access (driverTurn_uartHandle _ s) rfl, applyRest_continues]
  split <;> rfl

theorem callTurn_waitRxReady (s : State) :
    callTurn uartHandle .waitRxReady s =
      .next
        (pushOps (if s.rxFull = true then [] else [.call .waitRxReady]) (afterPoll (returnWord (stateWord s) s))) := by
  rw [callTurn_of_access (driverTurn_uartHandle _ s) rfl, applyRest_continues]
  split <;> rfl

/-- The first turn of a `PUTCHAR`. -/
theorem callTurn_putChar (b : Byte) (s : State) :
    callTurn uartHandle (.putChar b) s =
      .next
        (pushOps ((if s.txFull = true then .waitTxReady :: afterFirstWait b else afterFirstWait b).map .call)
          (afterPoll (returnWord (stateWord s) s))) := by
  rw [callTurn_of_access (driverTurn_uartHandle _ s) rfl, applyRest_continues]

/-- The first turn of a `GETCHAR`. -/
theorem callTurn_getChar (s : State) :
    callTurn uartHandle .getChar s =
      .next
        (pushOps ((if s.rxFull = true then [.receiveByte] else [.waitRxReady, .receiveByte]).map .call)
          (afterPoll (returnWord (stateWord s) s))) := by
  rw [callTurn_of_access (driverTurn_uartHandle _ s) rfl, applyRest_continues]

/-- What a turn of a driver call does: its one transaction, and the rest of the call on the host's side; or, for `INIT 0`,
the refusal mark. -/
theorem callTurn_cases {c : DriverCall} {s u : State} (h : callTurn uartHandle c s = .next u) :
    (∃ i t rest, callTransaction c = some i ∧ exec i s = .next t ∧ rest.refusal = none ∧ u = applyRest rest t) ∨
      (callTransaction c = none ∧ u = { s with refused := true }) := by
  rw [callTurn, driverTurn_uartHandle] at h
  cases c with
  | init r =>
    by_cases hr : r = 0
    · simp only [if_pos hr] at h
      cases h
      exact .inr ⟨if_pos hr, rfl⟩
    · simp only [if_neg hr] at h
      cases h
      exact .inl ⟨_, _, _, if_neg hr, rfl, rfl, rfl⟩
  | initControl => cases h; exact .inl ⟨_, _, _, rfl, rfl, rfl, rfl⟩
  | putChar b => cases h; exact .inl ⟨_, _, _, rfl, rfl, rfl, rfl⟩
  | getChar => cases h; exact .inl ⟨_, _, _, rfl, rfl, rfl, rfl⟩
  | waitTxReady => cases h; exact .inl ⟨_, _, _, rfl, rfl, rfl, rfl⟩
  | waitRxReady => cases h; exact .inl ⟨_, _, _, rfl, rfl, rfl, rfl⟩
  | sendByte b returns => cases h; exact .inl ⟨_, _, _, rfl, rfl, rfl, rfl⟩
  | receiveByte => cases h; exact .inl ⟨_, _, _, rfl, rfl, rfl, rfl⟩

end Sys2Proof.Machine
end

