-- ==== Sys2Proof/Laws/Agents.lean ====
section
/-! SUPPORT. What each agent's turn can do, said once: the frames of the two engines, what a transaction depends on, and the
one transaction of a host operation. -/

namespace Sys2Proof.Machine

open Sys2Proof

theorem SameBlock.refl (s : State) : SameBlock s s := by
  simp [SameBlock, SameRecord, SameSettings, SameTransmitSide, SameReceiveSide]

theorem SameBlock.symm {s t : State} (h : SameBlock s t) : SameBlock t s := by
  simp_all [SameBlock, SameRecord, SameSettings, SameTransmitSide, SameReceiveSide]

theorem SameBlock.trans {s t u : State} (h : SameBlock s t) (h' : SameBlock t u) : SameBlock s u := by
  simp_all [SameBlock, SameRecord, SameSettings, SameTransmitSide, SameReceiveSide]

/-- The transmitter's step keeps all but the buffer's flag, the wire, `isr` and the draw counter (41_line_engines.md R97). -/
theorem txStep_frame (s : State) :
    SameSettings s (txStep s) ∧ SameReceiveSide s (txStep s) ∧ (txStep s).txByte = s.txByte ∧
      (txStep s).txOvf = s.txOvf ∧ (txStep s).poll = s.poll ∧ (txStep s).faults = s.faults ∧
      (txStep s).refused = s.refused ∧ (txStep s).rdata = s.rdata ∧ SameHostSide s (txStep s) := by
  unfold txStep
  split <;> simp [SameSettings, SameReceiveSide, SameHostSide]

/-- The receiver's step keeps all but the receive side, `isr` and the draw counter (41_line_engines.md R97). -/
theorem rxStep_frame (b : Byte) (s : State) :
    SameSettings s (rxStep b s) ∧ SameTransmitSide s (rxStep b s) ∧ (rxStep b s).poll = s.poll ∧
      (rxStep b s).faults = s.faults ∧ (rxStep b s).refused = s.refused ∧ (rxStep b s).rdata = s.rdata ∧
      SameHostSide s (rxStep b s) := by
  unfold rxStep
  split
  · split <;> simp [SameSettings, SameTransmitSide, SameHostSide, overrunReceived, storeReceived]
  · simp [SameSettings, SameTransmitSide, SameHostSide]

/-- With the four interrupt enables 0, no event sets an `isr` bit (10_state.md R28). -/
theorem raiseIrq_isr_of_disabled (k : IrqSource) (s : State)
    (h : ∀ j, 2 ≤ j → j ≤ 5 → s.control.getLsbD j = false) : (raiseIrq k s).isr = s.isr := by
  have hk : s.control.getLsbD (irqEnableBit k) = false := h _ (by cases k <;> decide) (by cases k <;> decide)
  simp [hk]

/-- A transaction depends on the block alone: with another host program it does the same to the block. -/
theorem exec_with_program (i : Instr) (s : State) (p : List HostOp) :
    ∃ t u, exec i s = .next t ∧ exec i { s with program := p } = .next u ∧ SameBlock u t := by
  cases i
  case wrData v =>
    refine ⟨_, _, rfl, rfl, ?_⟩
    cases h : s.txFull <;>
      simp [overrunByte, h, SameBlock, SameRecord, SameSettings, SameTransmitSide, SameReceiveSide]
  all_goals
    refine ⟨_, _, rfl, rfl, ?_⟩
    simp [stateWord, controlWord, isrWord, receivedByte, clearsTxEn, txEnabled, changesDivisor, SameBlock, SameRecord,
      SameSettings, SameTransmitSide, SameReceiveSide]

/-- What is left of a driver call is the host's, so it leaves the block alone. -/
theorem applyRest_sameBlock {rest : CallRest} (h : rest.refusal = none) (s : State) : SameBlock s (applyRest rest s) := by
  obtain ⟨left, returned, refusal⟩ := rest
  subst h
  cases returned <;>
    simp [applyRest, SameBlock, SameRecord, SameSettings, SameTransmitSide, SameReceiveSide]

/-- A driver program is one whatever the poll counts for, if it is one with the poll not counting. -/
theorem driverOps_of_unpolled {ops : List HostOp} (h : driverOps false ops = true) (polled : Bool) :
    driverOps polled ops = true := by
  cases polled with
  | false => exact h
  | true => cases ops with
    | nil => rfl
    | cons op rest => cases op with
      | call c => cases c <;> simp_all [driverOps]
      | bus | mem | fetch => simp [driverOps] at h

/-- What a bus request does: the transaction it decodes to, or the refusal mark (20_memory.md R45). -/
theorem busAccess_cases {r : BusReq} {s u : State} (h : busAccess r s = .next u) :
    (∃ i, (decode r).toOption = some i ∧ exec i s = .next u) ∨
      ((decode r).toOption = none ∧ u = { s with refused := true }) := by
  unfold busAccess at h
  cases hd : decode r with
  | ok i => exact .inl ⟨i, rfl, by simpa [hd] using h⟩
  | error e =>
    rw [hd] at h
    cases h
    exact .inr ⟨rfl, rfl⟩

/-- What a host operation does: its one transaction, but for the host's side; with none, the refusal mark at most. -/
theorem runHostOp_cases {op : HostOp} {s u : State} (h : runHostOp op s = .next u) :
    (∃ i t, transactionOf op = some i ∧ exec i s = .next t ∧ SameBlock t u) ∨
      (transactionOf op = none ∧ (u = s ∨ u = { s with refused := true })) := by
  have hbus : ∀ r, busAccess r s = .next u →
      (∃ i t, (decode r).toOption = some i ∧ exec i s = .next t ∧ SameBlock t u) ∨
        ((decode r).toOption = none ∧ (u = s ∨ u = { s with refused := true })) := by
    intro r hr
    rcases busAccess_cases hr with ⟨i, hi, hu⟩ | ⟨hn, hu⟩
    · exact .inl ⟨i, u, hi, hu, SameBlock.refl u⟩
    · exact .inr ⟨hn, .inr hu⟩
  cases op with
  | bus r => exact hbus r h
  | mem write addr n wdata =>
    simp only [runHostOp, memAccess] at h
    simp only [transactionOf]
    cases hoff : busOffset addr with
    | none =>
      rw [hoff] at h
      exact .inr ⟨rfl, .inl (Host.Outcome.next.inj h).symm⟩
    | some off =>
      rw [hoff] at h
      exact hbus _ h
  | fetch addr =>
    simp only [runHostOp, fetchAccess] at h
    split at h <;> cases h
    · exact .inr ⟨rfl, .inr rfl⟩
    · exact .inr ⟨rfl, .inl rfl⟩
  | call c =>
    rcases callTurn_cases h with ⟨i, t, rest, hi, ht, hrest, rfl⟩ | ⟨hi, rfl⟩
    · exact .inl ⟨i, t, hi, ht, applyRest_sameBlock hrest t⟩
    · exact .inr ⟨hi, .inr rfl⟩

end Sys2Proof.Machine
end

