-- ==== Sys2Proof/Laws/Decode.lean ====
section
/-! SUPPORT. The bits of an encoded instruction (30_encoding.md R57), said once. -/

namespace Sys2Proof

/-- `T[31:0]` is the operand word. -/
theorem encode_getLsbD_low (i : Instr) (k : Nat) (h : k < 32) :
    (encode i).getLsbD k = (wordOperand i).getLsbD k := by
  simp only [encode, BitVec.getLsbD_or, BitVec.getLsbD_shiftLeft, BitVec.getLsbD_setWidth, h]
  simp
  omega

/-- `T[37:32]` is the selector. -/
theorem encode_getLsbD_high (i : Instr) (k : Nat) (h : k < 6) :
    (encode i).getLsbD (32 + k) = (selector i).getLsbD k := by
  have h38 : 32 + k < 38 := by omega
  simp [encode, h38]

/-- The request named by an encoded instruction is the instruction's own. -/
theorem requestOfWord_encode (i : Instr) : requestOfWord (encode i) = i.request := by
  have hoff : ((encode i).extractLsb' 32 5).setWidth 32 = i.request.off := by
    have hsel : (encode i).extractLsb' 32 5 = (selector i).setWidth 5 := by
      apply BitVec.eq_of_getLsbD_eq
      intro k hk
      rw [BitVec.getLsbD_extractLsb', BitVec.getLsbD_setWidth, encode_getLsbD_high i k (by omega)]
    rw [hsel]
    cases i <;> simp [selector, Instr.request]
  have hwrite : (encode i).getLsbD 37 = i.request.write := by
    rw [show 37 = 32 + 5 from rfl, encode_getLsbD_high i 5 (by omega)]
    cases i <;> simp [selector, Instr.request]
  have hdata : (encode i).extractLsb' 0 32 = i.request.wdata := by
    have hop : i.request.wdata = wordOperand i := by cases i <;> rfl
    rw [hop]
    apply BitVec.eq_of_getLsbD_eq
    intro k hk
    rw [BitVec.getLsbD_extractLsb', Nat.zero_add, encode_getLsbD_low i k hk]
    simp [hk]
  have hn : i.request.n = 4 := by cases i <;> rfl
  unfold requestOfWord
  rw [hoff, hwrite, hdata, ← hn]

/-- The request a selector over a write data names (30_encoding.md R57). -/
theorem requestOfWord_append (sel : BitVec 6) (v : Word) :
    requestOfWord (sel ++ v) =
      { write := sel.getLsbD 5, off := (sel.setWidth 5).setWidth 32, n := 4, wdata := v } := by
  have happ : ∀ k, BitVec.getLsbD (w := 38) (sel ++ v) k = if k < 32 then v.getLsbD k else sel.getLsbD (k - 32) :=
    fun _ => BitVec.getLsbD_append
  have hoff : BitVec.extractLsb' (n := 38) 32 5 (sel ++ v) = sel.setWidth 5 := by
    apply BitVec.eq_of_getLsbD_eq
    intro k hk
    simp [happ, hk, -BitVec.getLsbD_eq_getElem]
  have hdata : BitVec.extractLsb' (n := 38) 0 32 (sel ++ v) = v := by
    apply BitVec.eq_of_getLsbD_eq
    intro k hk
    simp [happ, hk, -BitVec.getLsbD_eq_getElem]
  unfold requestOfWord
  rw [hoff, hdata, happ]
  rfl

end Sys2Proof
end

