-- ==== Sys2Proof/Laws/PerInstr.lean ====
section
/-! SUPPORT. Statements about every instruction as syntax, one lemma per constructor. -/

namespace Sys2Proof.Laws.Admitted

open Sys2Proof

/-- The bus admits the request of every instruction: four bytes at a register's offset (20_memory.md R41, R42). -/
def Statement (i : Instr) : Prop := i.request.admitted = true

/-- A four-byte request at a register's offset is admitted, whatever its direction and data. -/
theorem admitted_of_offset (write : Bool) (off wdata : Word) (halign : (off.toNat % 4 == 0) = true)
    (hoff : registerOffsets.contains off = true) :
    BusReq.admitted { write := write, off := off, n := 4, wdata := wdata } = true := by
  simp only [BusReq.admitted, halign, hoff, Bool.and_true, beq_self_eq_true]

theorem rdData : Statement .rdData := admitted_of_offset false 0x00#32 0#32 rfl rfl

theorem wrData (wdata : Word) : Statement (.wrData wdata) := admitted_of_offset true 0x00#32 wdata rfl rfl

theorem rdState : Statement .rdState := admitted_of_offset false 0x04#32 0#32 rfl rfl

theorem wrState (wdata : Word) : Statement (.wrState wdata) := admitted_of_offset true 0x04#32 wdata rfl rfl

theorem rdControl : Statement .rdControl := admitted_of_offset false 0x08#32 0#32 rfl rfl

theorem wrControl (wdata : Word) : Statement (.wrControl wdata) := admitted_of_offset true 0x08#32 wdata rfl rfl

theorem rdIsr : Statement .rdIsr := admitted_of_offset false 0x0C#32 0#32 rfl rfl

theorem wrIsr (wdata : Word) : Statement (.wrIsr wdata) := admitted_of_offset true 0x0C#32 wdata rfl rfl

theorem rdBauddiv : Statement .rdBauddiv := admitted_of_offset false 0x10#32 0#32 rfl rfl

theorem wrBauddiv (wdata : Word) : Statement (.wrBauddiv wdata) := admitted_of_offset true 0x10#32 wdata rfl rfl

end Sys2Proof.Laws.Admitted
end

