-- ==== Sys2Proof/Tests/Slice0.lean ====
section
/-! SUPPORT. Tests whose expected results come from the spec (95_test_vectors.md, whose ids are named, and the examples of the
rules), and for every statement with hypotheses a concrete state that meets them. -/

namespace Sys2Proof.Tests

open Sys2Proof Sys2Proof.Machine

/-! Small states. -/

/-- `SI` of 95_test_vectors.md: reset, then `INIT 115200`. -/
def si : State := { State.reset with control := 0x03#7, bauddiv := 217#32 }

/-- `SI` with a byte in the transmit buffer. -/
def siSending (b : Byte) : State := { si with txFull := true, txByte := b }

/-- `SI` with a byte in the receive buffer. -/
def siReceived (b : Byte) : State := { si with rxFull := true, rxByte := some b }

/-- A state with a schedule and a host program. -/
def scheduled (turns : List Turn) (program : List HostOp) (s : State) : State :=
  { s with turns := turns, program := program }

/-- The state an outcome answers; the reset state where it answers none. -/
def after : Host.Outcome State Fault Refusal → State
  | .next s => s
  | .fault _ => State.reset
  | .refused _ => State.reset

/-! WellFormed: every check refuses an ill-formed request, and the requests of the instructions pass (20_memory.md R45). -/

theorem test_size_refused : BusReq.admitted ⟨true, 0x00#32, 1, 0x41#32⟩ = false := by decide

theorem test_misaligned_refused : BusReq.admitted ⟨false, 0x02#32, 4, 0#32⟩ = false := by decide

theorem test_no_register_refused : BusReq.admitted ⟨false, 0x14#32, 4, 0#32⟩ = false := by decide

theorem test_last_register_admitted : Instr.wellFormed (.wrBauddiv 217#32) = true := by decide

/-! Decoding: the words of 95_test_vectors.md and of the table of 30_encoding.md R62. -/

theorem test_decode_rdData : decodeWord 0x0000000000#38 = .ok .rdData := by decide

theorem test_decode_wrData : decodeWord 0x2000000041#38 = .ok (.wrData 0x41#32) := by decide

theorem test_decode_rdState : decodeWord 0x0400000000#38 = .ok .rdState := by decide

theorem test_decode_wrState : decodeWord 0x240000000F#38 = .ok (.wrState 0xF#32) := by decide

theorem test_decode_rdControl : decodeWord 0x0800000000#38 = .ok .rdControl := by decide

theorem test_decode_wrControl : decodeWord 0x2800000003#38 = .ok (.wrControl 0x3#32) := by decide

theorem test_decode_rdIsr : decodeWord 0x0C00000000#38 = .ok .rdIsr := by decide

theorem test_decode_wrIsr : decodeWord 0x2C00000001#38 = .ok (.wrIsr 0x1#32) := by decide

theorem test_decode_rdBauddiv : decodeWord 0x1000000000#38 = .ok .rdBauddiv := by decide

theorem test_decode_wrBauddiv : decodeWord 0x30000000D9#38 = .ok (.wrBauddiv 217#32) := by decide

theorem test_encode_words :
    encode (.wrData 0x0D#32) = 0x200000000D#38 ∧ encode (.wrControl 0x3#32) = 0x2800000003#38 ∧
      encode (.wrBauddiv 25#32) = 0x3000000019#38 ∧ encode .rdIsr = 0x0C00000000#38 := by decide

/-- The request of V-REF-4, beyond the registers. -/
theorem test_decode_far_offset_refused :
    decode ⟨false, 0xFFC#32, 4, 0#32⟩ = .error (.unadmittedAccess 0xFFC#32 4) := by decide

/-- A number in the opcode table's numbering, in whole bytes. -/
theorem test_decodeTableWord :
    decodeTableWord 40 0x2000000041 = some (.wrData 0x41#32) ∧ decodeTableWord 40 0x1400000000 = none ∧
      decodeTableWord 40 0x4000000000 = none := by decide

/-! The ten transactions. -/

/-- V-RDD-1. -/
theorem test_rdData_consumes :
    (after (exec .rdData (siReceived 0x48#8))).rdata = 0x48#32 ∧
      (after (exec .rdData (siReceived 0x48#8))).rxFull = false := by decide

/-- V-RDD-6. -/
theorem test_rdData_stale_poll_faults :
    (after (exec .rdData { siReceived 0x48#8 with poll := .stale })).faults = [.hazardStaleStatus] ∧
      (after (exec .rdData { siReceived 0x48#8 with poll := .stale })).rdata = 0x48#32 := by decide

/-- V-WRD-5: a sign-widened character. -/
theorem test_wrData_uses_low_byte :
    (after (exec (.wrData 0xFFFFFF80#32) si)).txByte = 0x80#8 ∧
      (after (exec (.wrData 0xFFFFFF80#32) si)).txFull = true := by decide

/-- V-WRD-3. -/
theorem test_wrData_overflow_raises :
    (after (exec (.wrData 0x42#32) { siSending 0x41#8 with control := 0x13#7 })).txOvf = true ∧
      (after (exec (.wrData 0x42#32) { siSending 0x41#8 with control := 0x13#7 })).isr = 0x4#4 := by decide

/-- V-RDS-2. -/
theorem test_rdState_flag_order :
    (after (exec .rdState { si with txFull := true, rxFull := true, rxOvf := true })).rdata = 0x0000000B#32 := by decide

/-- V-RDS-4. -/
theorem test_rdState_other_flags :
    (after (exec .rdState { si with rxFull := true, txOvf := true })).rdata = 0x00000006#32 := by decide

/-- V-WRS-1. -/
theorem test_wrState_clears_nothing :
    (after (exec (.wrState 0xF#32) { si with txOvf := true, poll := .fresh })).txOvf = true ∧
      (after (exec (.wrState 0xF#32) { si with txOvf := true, poll := .fresh })).poll = .stale := by decide

/-- V-WRS-2: no poll, nothing to make stale. -/
theorem test_wrState_no_change : exec (.wrState 0xFFFFFFFF#32) State.reset = .next State.reset := rfl

/-- V-CTL-2, the read. -/
theorem test_rdControl : (after (exec .rdControl { si with control := 0x7F#7 })).rdata = 0x7F#32 := by decide

/-- V-CTL-2, V-CTL-3: the bits above 6 are ignored. -/
theorem test_wrControl_seven_bits :
    (after (exec (.wrControl 0xFFFFFFFF#32) State.reset)).control = 0x7F#7 ∧
      (after (exec (.wrControl 0x80#32) State.reset)).control = 0x00#7 := by decide

/-- V-CTL-6. -/
theorem test_wrControl_stales_poll :
    (after (exec (.wrControl 0x3#32) { si with poll := .fresh })).poll = .stale := by decide

/-- V-ISR-1. -/
theorem test_rdIsr_clears :
    (after (exec .rdIsr { si with isr := 0x2#4 })).rdata = 0x2#32 ∧
      (after (exec .rdIsr { si with isr := 0x2#4 })).isr = 0x0#4 := by decide

/-- V-ISR-2. -/
theorem test_wrIsr_clears_nothing : (after (exec (.wrIsr 0x1#32) { si with isr := 0x1#4 })).isr = 0x1#4 := by decide

/-- V-BD-2: the value is a free value, so only what stays is tested. -/
theorem test_rdBauddiv_no_side_effect :
    (after (exec .rdBauddiv { si with poll := .fresh })).bauddiv = 217#32 ∧
      (after (exec .rdBauddiv { si with poll := .fresh })).poll = .fresh := by decide

/-- V-BD-3: the stored bits of an example width. -/
theorem test_divisor_truncates : lowBits 20 0xFFFFFFFF#32 = 0xFFFFF#32 := by decide

/-- V-BD-6. -/
theorem test_wrBauddiv_stales_poll :
    (after (exec (.wrBauddiv 217#32) { si with poll := .fresh })).poll = .stale := by decide

/-! The engines, with `BAUD_VALID` OPEN: the byte moved is not tested. -/

/-- V-ISR-3. -/
theorem test_txStep_raises :
    (txStep { siSending 0x41#8 with control := 0x07#7 }).txFull = false ∧
      (txStep { siSending 0x41#8 with control := 0x07#7 }).isr = 0x1#4 ∧
      (txStep { siSending 0x41#8 with control := 0x07#7 }).wireOut.length = 1 := by decide

/-- V-TX-2: `TX_EN` 0. -/
theorem test_txStep_disabled :
    txStep { siSending 0x41#8 with control := 0x02#7 } = { siSending 0x41#8 with control := 0x02#7 } := by decide

/-- V-ISR-6. -/
theorem test_rxStep_overflow_raises :
    (rxStep 0x42#8 { siReceived 0x41#8 with control := 0x23#7 }).rxOvf = true ∧
      (rxStep 0x42#8 { siReceived 0x41#8 with control := 0x23#7 }).isr = 0x8#4 := by decide

/-- V-RX-3: `RX_EN` 0. -/
theorem test_rxStep_disabled : rxStep 0x48#8 { si with control := 0x01#7 } = { si with control := 0x01#7 } := by decide

/-- 41_line_engines.md R92: after reset no divisor is valid. -/
theorem test_reset_divisor_not_valid : baudValid State.reset.bauddiv = false := rfl

/-! The driver. -/

/-- Family DIV: exact and inexact rates. -/
theorem test_divisorFor :
    divisorFor 115200 = 217 ∧ divisorFor 9600 = 2604 ∧ divisorFor 3125000 = 8 ∧ divisorFor 25000001 = 0 := by decide

/-- V-REF-5. -/
theorem test_init_zero_refused : (after (runHostOp (.call (.init 0)) si)).refused = true := by decide

/-- V-DRV-5: a carriage-return gets nothing added; V-DRV-2: a line-feed does. -/
theorem test_putChar_expansion :
    afterFirstWait 0x0D#8 = [.sendByte 0x0D#8 true] ∧
      afterFirstWait 0x0A#8 = [.sendByte 0x0D#8 false, .waitTxReady, .sendByte 0x0A#8 true] := by decide

/-- W3: a carriage-return is received, and a line-feed echoed. -/
theorem test_receiveByte_translates :
    (after (runHostOp (.call .receiveByte) (siReceived 0x0D#8))).program = [.call (.putChar 0x0A#8)] := by
  rw [runHostOp, callTurn_of_access (driverTurn_uartHandle _ _) rfl]
  decide

/-- W4: with nothing received the wait goes on. -/
theorem test_waitRxReady_spins : (after (runHostOp (.call .waitRxReady) si)).program = [.call .waitRxReady] := by
  rw [runHostOp, callTurn_waitRxReady]
  decide

/-- W2, on the simulated block: a line-feed writes 0x0D, then 0x0A, and 0x0A is returned. -/
theorem test_putChar_on_recordingBlock :
    driverRun (recordingBlock 0x40004000#32) 4 [.putChar 0x0A#8] [] =
      .next { block := [0x0D#32, 0x0A#32], left := [], returned := [0x0A#8], refused := false } := rfl

/-- V-REF-5 on the simulated block: the refusal shows in the outcome, and the calls after it are made (log entry 24). -/
theorem test_init_zero_on_recordingBlock :
    driverRun (recordingBlock 0x40004000#32) 3 [.init 0, .putChar 0x41#8] [] =
      .next { block := [0x41#32], left := [], returned := [0x41#8], refused := true } := rfl

/-- W5 and W7, on another simulated block, which records every write with its address: `INIT 115200`. -/
theorem test_init_on_simulated_block :
    driverRun
      ({ base := 0x100#32, read := fun _ w => .next w, write := fun a v w => .next (w ++ [(a, v)]), rdata := fun _ => 0#32 } :
        RegisterBlock (List (Word × Word)) Fault Refusal) 2 [.init 115200] [] =
      .next { block := [(0x110#32, 217#32), (0x108#32, 0x3#32)], left := [], returned := [], refused := false } := rfl

/-- The spec's outputs of 60_exceptions.md R116. -/
theorem test_outputs :
    irqAny { si with isr := 0x8#4 } = true ∧ irqAny si = false ∧
      irqOutput { si with isr := 0x8#4 } .receiveOverflow = true := by decide

/-! One witness for each statement with hypotheses, one for each of its clauses. -/

theorem witness_EncodeOfDecodeIsTheWord :
    decodeWord 0x04FFFF0001#38 = .ok .rdState ∧ decodeWord 0x30FFFFFFFF#38 = .ok (.wrBauddiv 0xFFFFFFFF#32) := by decide

theorem witness_DecodeReadsDirectionOffsetAndData :
    decode ⟨false, 0x00#32, 4, 7#32⟩ = .ok .rdData ∧ decode ⟨true, 0x10#32, 4, 7#32⟩ = .ok (.wrBauddiv 7#32) ∧
      (⟨false, 0x00#32, 2, 0#32⟩ : BusReq).n ≠ 4 ∧ (0x03#32 : Word).toNat % 4 ≠ 0 ∧
      0x14#32 ∉ [0x00#32, 0x04#32, 0x08#32, 0x0C#32, 0x10#32] := by decide

theorem witness_StepRunsTheDecodedTransaction :
    (scheduled [.host] [.bus ⟨true, 0x00#32, 4, 0x41#32⟩] si).turns = [.host] ∧
      (scheduled [.host] [.bus ⟨true, 0x00#32, 4, 0x41#32⟩] si).program = [.bus ⟨true, 0x00#32, 4, 0x41#32⟩] ∧
      decode ⟨true, 0x00#32, 4, 0x41#32⟩ = .ok (.wrData 0x41#32) := by decide

theorem witness_PlacedWordRunsNext :
    decodeTableWord 38 0x0400000000 = some .rdState ∧ decodeTableWord 40 0x30000000D9 = some (.wrBauddiv 217#32) := by decide

/-- A step that runs a placed word, as the host asks it. -/
theorem test_placed_word_runs :
    (after (step (State.reset.withFetchWord 40 0x2000000041))).txByte = 0x41#8 ∧
      (after (step (State.reset.withFetchWord 40 0x1400000000))).refused = true := by decide

theorem witness_UnadmittedAccessOnlyMarksRefused :
    (scheduled [.host] [.bus ⟨false, 0x14#32, 4, 0#32⟩] si).turns = [.host] ∧
      (scheduled [.host] [.bus ⟨false, 0x14#32, 4, 0#32⟩] si).program = [.bus ⟨false, 0x14#32, 4, 0#32⟩] ∧
      0x14#32 ∉ [0x00#32, 0x04#32, 0x08#32, 0x0C#32, 0x10#32] := by decide

/-- The base address is in the window, whatever it is. -/
theorem witness_MemoryAccessInWindowIsBusAccess :
    Config.uartBase.toNat ≤ Config.uartBase.toNat ∧
      Config.uartBase.toNat < Config.uartBase.toNat + Config.uartWindowBytes :=
  ⟨Nat.le_refl _, by unfold Config.uartWindowBytes; omega⟩

theorem witness_FetchFromWindowIsRefused :
    (scheduled [.host] [.fetch Config.uartBase] si).turns = [.host] ∧
      (scheduled [.host] [.fetch Config.uartBase] si).program = [.fetch Config.uartBase] ∧
      Config.uartBase.toNat ≤ Config.uartBase.toNat ∧
      Config.uartBase.toNat < Config.uartBase.toNat + Config.uartWindowBytes :=
  ⟨rfl, rfl, Nat.le_refl _, by unfold Config.uartWindowBytes; omega⟩

theorem witness_HostTurnIsOneTransaction :
    (scheduled [] [.call .getChar] si).program = [.call .getChar] ∧ transactionOf (.call .getChar) = some .rdState ∧
      (scheduled [] [.call (.init 0)] si).program = [.call (.init 0)] ∧ transactionOf (.call (.init 0)) = none := by decide

theorem witness_ReadDataReturnsAndConsumesTheByte :
    (siReceived 0xFF#8).rxByte = some 0xFF#8 ∧ State.reset.rxByte = none := by decide

theorem witness_WriteDataBuffersOrOverflows : si.txFull = false ∧ (siSending 0x41#8).txFull = true := by decide

theorem witness_WriteControlSetsTheSevenBits :
    (si.control.getLsbD 0 = true ∧ (0x2#32 : Word).getLsbD 0 = false) ∧ State.reset.control.getLsbD 0 = false ∧
      (0x3#32 : Word).getLsbD 0 = true := by decide

/-- Bit 0 is below every width, so 1 is stored as 1 and 0 as 0. -/
theorem witness_WriteBauddivStoresTheDivisor :
    (after (exec (.wrBauddiv 1#32) State.reset)).bauddiv ≠ State.reset.bauddiv ∧
      (after (exec (.wrBauddiv 0#32) State.reset)).bauddiv = State.reset.bauddiv := by
  have h0 : ∀ v : Word, (after (exec (.wrBauddiv v) State.reset)).bauddiv = lowBits Config.bauddivWidth v := fun _ => rfl
  rw [h0, h0]
  constructor
  · intro h
    have hbit := congrArg (fun x : Word => x.getLsbD 0) h
    rw [lowBits_getLsbD] at hbit
    simp [State.reset, Config.bauddivWidth] at hbit
  · simp [lowBits, State.reset]

theorem witness_ReconfiguringDisturbsOnlyTheLastByte :
    (si.control.getLsbD 0 = true ∧ (after (exec (.wrControl 0x2#32) si)).control.getLsbD 0 = false) ∧
      (after (exec (.wrControl 0x3#32) si)).bauddiv = si.bauddiv ∧
      (after (exec (.wrControl 0x3#32) si)).control.getLsbD 0 = true := by decide

theorem witness_RegisterWritesAreIdempotent :
    Instr.wrBauddiv 217#32 ∈ [Instr.wrState 217#32, .wrControl 217#32, .wrIsr 217#32, .wrBauddiv 217#32] := by decide

theorem witness_WritesIgnoreUnusedDataBits :
    (0x41#32 : Word).setWidth 8 = (0x12345641#32 : Word).setWidth 8 ∧
      (0x3#32 : Word).setWidth 7 = (0x83#32 : Word).setWidth 7 ∧
      (217#32 : Word).setWidth Config.bauddivWidth = (217#32 : Word).setWidth Config.bauddivWidth :=
  ⟨by decide, by decide, rfl⟩

theorem witness_DataReadIgnoresTheTransmitBuffer :
    ∃ t u, exec .rdData (siReceived 0x48#8) = .next t ∧
      exec .rdData { siReceived 0x48#8 with txByte := 0x41#8, txFull := true, txOvf := true } = .next u :=
  ⟨_, _, rfl, rfl⟩

theorem witness_EnablesGateNoTransaction :
    (0x7D#7 : BitVec 7).getLsbD 0 = si.control.getLsbD 0 ∧ Instr.rdData ≠ .rdControl ∧
      ∃ t u, exec .rdData si = .next t ∧ exec .rdData { si with control := 0x7D#7 } = .next u :=
  ⟨rfl, by decide, _, _, rfl, rfl⟩

theorem witness_TransmitterSendsTheBufferedByte :
    nextTurn (scheduled [.transmitter] [] (siSending 0x0D#8)) = .transmitter ∧
      (scheduled [.transmitter] [] (siSending 0x0D#8)).control.getLsbD 0 = true ∧
      (scheduled [.transmitter] [] (siSending 0x0D#8)).txFull = true := by decide

theorem witness_DisabledTransmitterChangesNothing :
    (nextTurn (scheduled [.transmitter] [] State.reset) = .transmitter ∧
      (scheduled [.transmitter] [] State.reset).control.getLsbD 0 = false) ∧
      nextTurn (scheduled [.transmitter] [] si) = .transmitter ∧ (scheduled [.transmitter] [] si).txFull = false := by decide

theorem witness_ReceiverStoresOrOverflows :
    (nextTurn (scheduled [.receiver 0x48#8] [] si) = .receiver 0x48#8 ∧ si.control.getLsbD 1 = true ∧ si.rxFull = false) ∧
      nextTurn (scheduled [.receiver 0x69#8] [] (siReceived 0x48#8)) = .receiver 0x69#8 ∧
      (siReceived 0x48#8).control.getLsbD 1 = true ∧ (siReceived 0x48#8).rxFull = true := by decide

theorem witness_DisabledReceiverLosesTheByte :
    nextTurn (scheduled [.receiver 0x48#8] [] State.reset) = .receiver 0x48#8 ∧
      (scheduled [.receiver 0x48#8] [] State.reset).control.getLsbD 1 = false := by decide

theorem witness_EngineStepsKeepTheHostsRegisters :
    nextTurn (scheduled [.transmitter] [] si) = .transmitter ∧
      nextTurn (scheduled [.receiver 0x00#8] [] si) = .receiver 0x00#8 := by decide

theorem witness_AcceptedBytesAreSentInOrder :
    si.txFull = false ∧ nextTurn (scheduled [.transmitter] [] (siSending 0x41#8)) = .transmitter ∧
      nextTurn (scheduled [.receiver 0x42#8] [] (siSending 0x41#8)) = .receiver 0x42#8 := by decide

/-- A write into the full transmit buffer, a byte into the full receive buffer, a reset. -/
theorem witness_OverflowBitsAreStickyUntilReset :
    (∃ t, step (scheduled [.host] [.bus ⟨true, 0x00#32, 4, 0x42#32⟩] (siSending 0x41#8)) = .next t) ∧
      stepTransaction (scheduled [.host] [.bus ⟨true, 0x00#32, 4, 0x42#32⟩] (siSending 0x41#8)) = some (.wrData 0x42#32) ∧
      (∃ t, step (scheduled [.receiver 0x42#8] [] (siReceived 0x41#8)) = .next t) ∧
      nextTurn (scheduled [.receiver 0x42#8] [] (siReceived 0x41#8)) = .receiver 0x42#8 ∧
      (∃ t, step (scheduled [.reset] [] si) = .next t) ∧ nextTurn (scheduled [.reset] [] si) = .reset :=
  ⟨⟨_, rfl⟩, by decide, ⟨_, rfl⟩, by decide, ⟨_, rfl⟩, by decide⟩

/-- The four events, each with its enable 1 and its bit 0 before the step. -/
theorem witness_IsrBitsAreSetExactlyAtTheirEvents :
    ((∃ t, step (scheduled [.transmitter] [] { siSending 0x41#8 with control := 0x07#7 }) = .next t) ∧
      ({ siSending 0x41#8 with control := 0x07#7 } : State).control.getLsbD (0 + 2) = true) ∧
    ((∃ t, step (scheduled [.receiver 0x41#8] [] { si with control := 0x0A#7 }) = .next t) ∧
      ({ si with control := 0x0A#7 } : State).control.getLsbD (1 + 2) = true) ∧
    ((∃ t, step (scheduled [.host] [.bus ⟨true, 0x00#32, 4, 0x42#32⟩]
        { siSending 0x41#8 with control := 0x13#7 }) = .next t) ∧
      ({ siSending 0x41#8 with control := 0x13#7 } : State).control.getLsbD (2 + 2) = true) ∧
    ((∃ t, step (scheduled [.receiver 0x42#8] [] { siReceived 0x41#8 with control := 0x23#7 }) = .next t) ∧
      ({ siReceived 0x41#8 with control := 0x23#7 } : State).control.getLsbD (3 + 2) = true) ∧
    ∀ k, si.isr.getLsbD k = false :=
  ⟨⟨⟨_, rfl⟩, by decide⟩, ⟨⟨_, rfl⟩, by decide⟩, ⟨⟨_, rfl⟩, by decide⟩, ⟨⟨_, rfl⟩, by decide⟩, fun k => by
    simp [si, State.reset]⟩

theorem witness_AtMostOneIsrBitSetPerStep :
    ∃ t, step (scheduled [.transmitter] [] { siSending 0x41#8 with control := 0x07#7 }) = .next t ∧
      t.isr.getLsbD 0 = true := ⟨_, rfl, by decide⟩

/-- A read of `isr`, a reset, and a read of `control` with a bit pending. -/
theorem witness_PendingBitsClearOnlyOnReadOrReset :
    ((∃ t, step (scheduled [.host] [.bus ⟨false, 0x0C#32, 4, 0#32⟩] { si with isr := 0x1#4 }) = .next t) ∧
      stepTransaction (scheduled [.host] [.bus ⟨false, 0x0C#32, 4, 0#32⟩] { si with isr := 0x1#4 }) = some .rdIsr) ∧
    ((∃ t, step (scheduled [.reset] [] { si with isr := 0x1#4 }) = .next t) ∧
      nextTurn (scheduled [.reset] [] { si with isr := 0x1#4 }) = .reset) ∧
    (∃ t, step (scheduled [.host] [.bus ⟨false, 0x08#32, 4, 0#32⟩] { si with isr := 0x1#4 }) = .next t) ∧
      stepTransaction (scheduled [.host] [.bus ⟨false, 0x08#32, 4, 0#32⟩] { si with isr := 0x1#4 }) ≠ some .rdIsr ∧
      ({ si with isr := 0x1#4 } : State).isr.getLsbD 0 = true :=
  ⟨⟨⟨_, rfl⟩, by decide⟩, ⟨⟨_, rfl⟩, by decide⟩, ⟨_, rfl⟩, by decide, by decide⟩

theorem witness_FaultsAndRefusalAreNeverCleared :
    (∃ t, step (scheduled [.host] [.bus ⟨false, 0x04#32, 4, 0#32⟩] { si with faults := [.hazardStaleStatus], refused := true }) = .next t) ∧
      nextTurn (scheduled [.host] [.bus ⟨false, 0x04#32, 4, 0#32⟩] { si with faults := [.hazardStaleStatus], refused := true }) ≠ .reset :=
  ⟨⟨_, rfl⟩, by decide⟩

/-- V-HZ-1, its last step: the hazard, and (V-HZ-4) none with no poll at all. -/
theorem witness_HazardIsRecordedExactlyOnAStalePoll :
    (∃ t, step (scheduled [.host] [.bus ⟨true, 0x00#32, 4, 0x41#32⟩] { si with poll := .stale }) = .next t ∧
      t.faults = [.hazardStaleStatus]) ∧
    (∃ t, step (scheduled [.host] [.bus ⟨true, 0x00#32, 4, 0x41#32⟩] si) = .next t ∧ t.faults = []) ∧
    nextTurn (scheduled [.host] [.bus ⟨true, 0x00#32, 4, 0x41#32⟩] { si with poll := .stale }) ≠ .reset :=
  ⟨⟨_, rfl, by decide⟩, ⟨_, rfl, by decide⟩, by decide⟩

theorem witness_WireOnlyGrowsOrLosesItsLastByte :
    (∃ t, step (scheduled [.transmitter] [] (siSending 0x0D#8)) = .next t) ∧
      nextTurn (scheduled [.transmitter] [] (siSending 0x0D#8)) ≠ .reset ∧
      (∃ t, step (scheduled [.host] [.bus ⟨true, 0x08#32, 4, 0x2#32⟩] { si with wireOut := [0x30#8] }) = .next t) ∧
      nextTurn (scheduled [.host] [.bus ⟨true, 0x08#32, 4, 0x2#32⟩] { si with wireOut := [0x30#8] }) ≠ .reset :=
  ⟨⟨_, rfl⟩, by decide, ⟨_, rfl⟩, by decide⟩

/-- A step of each kind that draws. -/
theorem witness_DrawCounterNeverGoesBack :
    ((∃ t, step (scheduled [.transmitter] [] (siSending 0x41#8)) = .next t) ∧
      nextTurn (scheduled [.transmitter] [] (siSending 0x41#8)) = .transmitter) ∧
    ((∃ t, step (scheduled [.receiver 0x41#8] [] si) = .next t) ∧ si.control.getLsbD 1 = true) ∧
    ((∃ t, step (scheduled [.reset] [] si) = .next t) ∧ nextTurn (scheduled [.reset] [] si) = .reset) ∧
    ((∃ t, step (scheduled [.host] [.bus ⟨false, 0x10#32, 4, 0#32⟩] si) = .next t) ∧
      stepTransaction (scheduled [.host] [.bus ⟨false, 0x10#32, 4, 0#32⟩] si) = some .rdBauddiv) ∧
    ((∃ t, step (scheduled [.host] [.bus ⟨false, 0x00#32, 4, 0#32⟩] si) = .next t) ∧
      stepTransaction (scheduled [.host] [.bus ⟨false, 0x00#32, 4, 0#32⟩] si) = some .rdData ∧ si.rxByte = none) ∧
    ((∃ t, step (scheduled [.host] [.bus ⟨true, 0x00#32, 4, 0x42#32⟩] (siSending 0x41#8)) = .next t) ∧
      stepTransaction (scheduled [.host] [.bus ⟨true, 0x00#32, 4, 0x42#32⟩] (siSending 0x41#8)) =
        some (.wrData 0x42#32)) ∧
    ((∃ t, step (scheduled [.host] [.bus ⟨true, 0x08#32, 4, 0x2#32⟩] si) = .next t) ∧
      stepTransaction (scheduled [.host] [.bus ⟨true, 0x08#32, 4, 0x2#32⟩] si) = some (.wrControl 0x2#32)) :=
  ⟨⟨⟨_, rfl⟩, by decide⟩, ⟨⟨_, rfl⟩, by decide⟩, ⟨⟨_, rfl⟩, by decide⟩, ⟨⟨_, rfl⟩, by decide⟩, ⟨⟨_, rfl⟩, by decide⟩,
    ⟨⟨_, rfl⟩, by decide⟩, ⟨⟨_, rfl⟩, by decide⟩⟩

/-- The remaining kind: bit 0 is below every width, so 1 is another divisor than 0. -/
theorem witness_DrawCounterNeverGoesBack_bauddiv :
    (∃ t, step (scheduled [.host] [.bus ⟨true, 0x10#32, 4, 0x1#32⟩] State.reset) = .next t) ∧
      stepTransaction (scheduled [.host] [.bus ⟨true, 0x10#32, 4, 0x1#32⟩] State.reset) = some (.wrBauddiv 0x1#32) ∧
      lowBits Config.bauddivWidth 0x1#32 ≠ State.reset.bauddiv :=
  ⟨⟨_, rfl⟩, by decide, witness_WriteBauddivStoresTheDivisor.1⟩

theorem witness_PlatformResetReturnsTheRecord : nextTurn (scheduled [.reset] [] (siSending 0x41#8)) = .reset := by decide

theorem witness_EveryStepKeepsTheBlockInvariant :
    BlockInvariant (scheduled [.receiver 0x41#8] [] State.reset) ∧
      ∃ t, step (scheduled [.receiver 0x41#8] [] State.reset) = .next t :=
  ⟨⟨by simp [ReceiveSound, scheduled, State.reset], fun k _ => by simp [scheduled, State.reset]⟩, _, rfl⟩

theorem witness_DivisorArithmeticLaws : 1 ≤ 1 ∧ 25000000 < 25000001 ∧ 25 ≤ 25 := by decide

theorem witness_InitWritesDivisorThenControl :
    1 ≤ 115200 ∧ (scheduled [.host, .host] [.call (.init 115200)] State.reset).turns = [.host, .host] ∧
      (scheduled [.host, .host] [.call (.init 115200)] State.reset).program = [.call (.init 115200)] := by decide

theorem witness_InitZeroIsRefused :
    (scheduled [.host] [.call (.init 0)] State.reset).turns = [.host] ∧
      (scheduled [.host] [.call (.init 0)] State.reset).program = [.call (.init 0)] := by decide

theorem witness_WaitsSpinUntilTheirStatusBit :
    (scheduled [.host] [.call .waitTxReady] (siSending 0x41#8)).turns = [.host] ∧
      (scheduled [.host] [.call .waitTxReady] (siSending 0x41#8)).program = [.call .waitTxReady] ∧
      (scheduled [.host] [.call .waitRxReady] si).turns = [.host] ∧
      (scheduled [.host] [.call .waitRxReady] si).program = [.call .waitRxReady] := by decide

theorem witness_PutCharBuffersAndReturnsTheByte :
    0x41#8 ≠ 0x0A#8 ∧ (scheduled [.host, .host] [.call (.putChar 0x41#8)] si).txFull = false ∧
      (scheduled [.host, .host] [.call (.putChar 0x41#8)] si).turns = [.host, .host] ∧
      (scheduled [.host, .host] [.call (.putChar 0x41#8)] si).program = [.call (.putChar 0x41#8)] := by decide

theorem witness_PutCharPrecedesLineFeedByCarriageReturn :
    si.txFull = false ∧ si.control.getLsbD 0 = true ∧
      (scheduled [.host, .host, .transmitter, .host, .host] [.call (.putChar 0x0A#8)] si).turns =
        [.host, .host, .transmitter, .host, .host] ∧
      (scheduled [.host, .host, .transmitter, .host, .host] [.call (.putChar 0x0A#8)] si).program = [.call (.putChar 0x0A#8)] := by decide

theorem witness_GetCharTranslatesAndEchoes :
    (scheduled [.host, .host] [.call .getChar] (siReceived 0x0D#8)).rxFull = true ∧
      (scheduled [.host, .host] [.call .getChar] (siReceived 0x0D#8)).rxByte = some 0x0D#8 ∧
      (scheduled [.host, .host] [.call .getChar] (siReceived 0x0D#8)).turns = [.host, .host] ∧
      (scheduled [.host, .host] [.call .getChar] (siReceived 0x0D#8)).program = [.call .getChar] := by decide

/-- `INIT 115200; GETCHAR; PUTCHAR '\n'` from reset. -/
def driverProgram : State := scheduled [.host] [.call (.init 115200), .call .getChar, .call (.putChar 0x0A#8)] State.reset

theorem driverProgram_step : ∃ t, step driverProgram = .next t := by
  rw [step_host_op (ts := []) rfl rfl, runHostOp, callTurn_init (by decide) rfl]
  exact ⟨_, rfl⟩

theorem witness_EveryStepKeepsTheDriverHazardFree : DriverHazardFree driverProgram ∧ ∃ t, step driverProgram = .next t :=
  ⟨⟨rfl, rfl⟩, driverProgram_step⟩

theorem witness_EveryStepKeepsTheDriverInterruptsOff :
    DriverInterruptsOff driverProgram ∧ ∃ t, step driverProgram = .next t :=
  ⟨⟨rfl, rfl, fun k _ _ => by simp [driverProgram, scheduled, State.reset]⟩, driverProgram_step⟩

/-- The run from a state with the host's program ended. -/
def idleRun : Nat → State
  | 0 => State.reset
  | n + 1 => after (step (idleRun n))

/-- With the program ended every turn answers a next state, and `TX_EN` and the program stay as at reset. -/
theorem idleRun_step (s : State) (hp : s.program = []) (hc : s.control = 0#7) :
    step s = .next (after (step s)) ∧ (after (step s)).program = [] ∧ (after (step s)).control = 0#7 := by
  have hp' : (turnTaken s).program = [] := by simpa using hp
  have hc' : (turnTaken s).control = 0#7 := by simpa using hc
  unfold step
  cases nextTurn s with
  | host =>
    simp only [runTurn, hostTurn_nil hp']
    exact ⟨rfl, hp', hc'⟩
  | transmitter => exact ⟨rfl, (txStep_frame _).2.2.2.2.2.2.2.2.1.trans hp', (txStep_frame _).1.1.trans hc'⟩
  | receiver b => exact ⟨rfl, (rxStep_frame b _).2.2.2.2.2.2.1.trans hp', (rxStep_frame b _).1.1.trans hc'⟩
  | reset => exact ⟨rfl, hp', rfl⟩

theorem idleRun_idle (n : Nat) : (idleRun n).program = [] ∧ (idleRun n).control = 0#7 := by
  induction n with
  | zero => exact ⟨rfl, rfl⟩
  | succ n ih => exact (idleRun_step _ ih.1 ih.2).2

theorem witness_FairTransmitterIsNotOwedForEver : IsRun idleRun ∧ WeaklyFair idleRun := by
  refine ⟨fun n => (idleRun_step _ (idleRun_idle n).1 (idleRun_idle n).2).1, fun n h => ?_⟩
  have howed := (h n (Nat.le_refl n)).1
  rw [(idleRun_idle n).2] at howed
  simp at howed

/-- As many turns as needed, and the boundary of none for no byte. -/
theorem witness_PutCharsDriveASimulatedBlock : 4 * [0x41#8, 0x0A#8].length ≤ 8 ∧ 4 * ([] : List Byte).length ≤ 0 := by decide

/-- A `PUTCHAR` that finds the buffer full, of a line-feed and of another byte; a `GETCHAR` that finds it empty; the two
accesses they end in. -/
theorem witness_CallsWaitForTheirStatusBit :
    (scheduled [.host] [.call (.putChar 0x0A#8)] (siSending 0x41#8)).turns = [.host] ∧
      (scheduled [.host] [.call (.putChar 0x0A#8)] (siSending 0x41#8)).program = [.call (.putChar 0x0A#8)] ∧
      (scheduled [.host] [.call (.putChar 0x0D#8)] (siSending 0x41#8)).program = [.call (.putChar 0x0D#8)] ∧
      (siSending 0x41#8).txFull = true ∧
      (scheduled [.host] [.call .getChar] si).turns = [.host] ∧
      (scheduled [.host] [.call .getChar] si).program = [.call .getChar] ∧ si.rxFull = false ∧
      (scheduled [.host] [.call (.sendByte 0x41#8 true)] si).turns = [.host] ∧
      (scheduled [.host] [.call (.sendByte 0x41#8 true)] si).program = [.call (.sendByte 0x41#8 true)] ∧
      si.txFull = false ∧
      (scheduled [.host] [.call .receiveByte] (siReceived 0x0D#8)).turns = [.host] ∧
      (scheduled [.host] [.call .receiveByte] (siReceived 0x0D#8)).program = [.call .receiveByte] ∧
      (siReceived 0x0D#8).rxByte = some 0x0D#8 := by decide

end Sys2Proof.Tests
end

/-! What the host's step does to the block, as its transaction; the transaction of each kind of turn. -/

namespace Sys2Proof.Machine

theorem SameBlock.txOvf {s t : State} (h : SameBlock s t) : t.txOvf = s.txOvf := by
  obtain ⟨⟨-, ⟨-, -, htx, -⟩, -⟩, -⟩ := h
  exact htx

theorem SameBlock.rxOvf {s t : State} (h : SameBlock s t) : t.rxOvf = s.rxOvf := by
  obtain ⟨⟨-, -, ⟨-, -, hrx⟩, -⟩, -⟩ := h
  exact hrx

theorem stepTransaction_of_host {s : State} (h : nextTurn s = .host) :
    stepTransaction s = s.program.head?.bind transactionOf := by
  simp [stepTransaction, h]

/-- Only the host issues a transaction (00_scope.md R8). -/
theorem stepTransaction_of_ne_host {s : State} (h : nextTurn s ≠ .host) : stepTransaction s = none := by
  cases hturn : nextTurn s with
  | host => exact absurd hturn h
  | transmitter | receiver | reset => simp [stepTransaction, hturn]

/-- What the host's step does to the block: its transaction on the state with the turn taken; with none, the refusal mark at
most. -/
theorem hostTurn_turnTaken_cases {s t : State} (hturn : nextTurn s = .host) (h : hostTurn (turnTaken s) = .next t) :
    (∃ i u, stepTransaction s = some i ∧ exec i (turnTaken s) = .next u ∧ SameBlock u t) ∨
      (stepTransaction s = none ∧
        (SameBlock (turnTaken s) t ∨ SameBlock { turnTaken s with refused := true } t)) := by
  rw [stepTransaction_of_host hturn]
  cases hprog : s.program with
  | nil =>
    rw [hostTurn_nil (by simpa using hprog)] at h
    cases h
    exact .inr ⟨rfl, .inl (SameBlock.refl _)⟩
  | cons op rest =>
    rw [hostTurn_cons (op := op) (rest := rest) (by simpa using hprog)] at h
    rcases runHostOp_cases h with ⟨i, v, hi, hv, hvt⟩ | ⟨hnone, rfl | rfl⟩
    · obtain ⟨u, v', hu, hv', huv⟩ := exec_with_program i (turnTaken s) rest
      cases hv.symm.trans hv'
      exact .inl ⟨i, u, hi, hu, huv.symm.trans hvt⟩
    · exact .inr ⟨hnone, .inl (SameBlock.refl (turnTaken s))⟩
    · exact .inr ⟨hnone, .inr (SameBlock.refl { turnTaken s with refused := true })⟩

end Sys2Proof.Machine

/-! The overflow bits under each agent's step (10_state.md R20, R21, R25). -/

namespace Sys2Proof.Machine

/-- Of the ten transactions, only `WR data` into a full buffer sets `tx_ovf` (40_register_access.md R72). -/
theorem exec_txOvf {i : Instr} {s u : State} (h : exec i s = .next u) :
    u.txOvf = true ↔ s.txOvf = true ∨ (s.txFull = true ∧ ∃ v, i = .wrData v) := by
  cases i
  case wrData v =>
    cases h
    by_cases hfull : s.txFull = true <;> simp [hfull, overrunByte]
  all_goals
    cases h
    simp

/-- No transaction changes `rx_ovf`. -/
theorem exec_rxOvf {i : Instr} {s u : State} (h : exec i s = .next u) : u.rxOvf = s.rxOvf := by
  cases i
  case wrData v =>
    cases h
    by_cases hfull : s.txFull = true <;> simp [hfull, overrunByte]
  all_goals
    cases h
    simp

/-- The receiver's turn sets `rx_ovf` exactly when it is enabled and its buffer is full (41_line_engines.md R88, R89). -/
theorem rxStep_rxOvf (b : Byte) (s : State) :
    (rxStep b s).rxOvf = true ↔ s.rxOvf = true ∨ (s.rxFull = true ∧ rxEnabled s = true) := by
  by_cases hen : rxEnabled s = true
  · by_cases hfull : s.rxFull = true <;> simp [rxStep, hen, hfull, overrunReceived, storeReceived]
  · simp [rxStep, hen]

/-- The host's turn sets `tx_ovf` exactly by a `WR data` into the full buffer, and keeps `rx_ovf`. -/
theorem hostTurn_overflow {s t : State} (hturn : nextTurn s = .host) (h : hostTurn (turnTaken s) = .next t) :
    (t.txOvf = true ↔ s.txOvf = true ∨ (s.txFull = true ∧ ∃ v, stepTransaction s = some (.wrData v))) ∧
      t.rxOvf = s.rxOvf := by
  rcases hostTurn_turnTaken_cases hturn h with ⟨i, u, hi, hu, hut⟩ | ⟨hnone, hst | hst⟩
  · rw [hut.txOvf, hut.rxOvf]
    exact ⟨by simpa [hi] using exec_txOvf hu, by simpa using exec_rxOvf hu⟩
  · simp [hnone, hst.txOvf, hst.rxOvf]
  · simp [hnone, hst.txOvf, hst.rxOvf]

/-- Settles O36, by what each kind of turn does to the two bits. -/
theorem overflowBitsAreStickyUntilReset : Obligations.OverflowBitsAreStickyUntilReset := by
  intro s t h
  rcases step_cases h with ⟨hturn, ht⟩ | ⟨hturn, rfl⟩ | ⟨b, hturn, rfl⟩ | ⟨hturn, rfl⟩
  · obtain ⟨htx, hrx⟩ := hostTurn_overflow hturn ht
    simp [hturn, htx, hrx]
  · obtain ⟨-, ⟨-, -, hrx⟩, -, htx, -⟩ := txStep_frame (turnTaken s)
    simp [hturn, htx, hrx, stepTransaction_of_ne_host]
  · obtain ⟨-, ⟨-, -, htx, -⟩, -⟩ := rxStep_frame b (turnTaken s)
    simp [hturn, htx, rxStep_rxOvf, rxEnabled, rxEnBit, stepTransaction_of_ne_host]
  · simp [hturn, platformReset, State.reset]

end Sys2Proof.Machine

/-! The accesses the block refuses: a request the bus does not admit (20_memory.md R45), a fetch from the window (R53). -/

namespace Sys2Proof.Machine

/-- The decoder's match has an arm for each register's offset and for no other (30_encoding.md R63). -/
theorem decodeOffset_eq_none_iff (write : Bool) (off wdata : Word) :
    decodeOffset write off wdata = none ↔ off ∉ registerOffsets := by
  unfold decodeOffset
  split_ifs <;> simp [registerOffsets, *]

/-- The three conditions of 20_memory.md R45, any of which refuses the request. -/
theorem decode_of_unadmitted {r : BusReq} (h : r.n ≠ 4 ∨ r.off.toNat % 4 ≠ 0 ∨ r.off ∉ registerOffsets) :
    decode r = .error (.unadmittedAccess r.off r.n) := by
  unfold decode
  by_cases hword : r.n ≠ 4 ∨ r.off.toNat % 4 ≠ 0
  · rw [if_pos hword]
  · have hoff : r.off ∉ registerOffsets := (or_assoc.mpr h).resolve_left hword
    rw [if_neg hword, (decodeOffset_eq_none_iff r.write r.off r.wdata).mpr hoff]

/-- A request the decoder refuses only sets the refusal mark. -/
theorem busAccess_of_decode_error {r : BusReq} {e : RefuseReason} (h : decode r = .error e) (s : State) :
    busAccess r s = .next { s with refused := true } := by
  rw [busAccess, h]
  rfl

/-- A fetch inside the window only sets the refusal mark. -/
theorem fetchAccess_of_mem_window {addr : Word} (hlo : Config.uartBase.toNat ≤ addr.toNat)
    (hhi : addr.toNat < Config.uartBase.toNat + Config.uartWindowBytes) (s : State) :
    fetchAccess addr s = .next { s with refused := true } := by
  rw [fetchAccess, busOffset, if_pos ⟨hlo, hhi⟩]
  rfl

/-- Settles O9: the decoder refuses the request, so the host's turn only sets the mark. -/
theorem unadmittedAccessOnlyMarksRefused : Obligations.UnadmittedAccessOnlyMarksRefused := by
  intro s r ts rest hturn hop hbad
  have hdecode := decode_of_unadmitted hbad
  refine ⟨hdecode, ?_⟩
  rw [step_host_op hturn hop]
  exact busAccess_of_decode_error hdecode _

/-- Settles O11: the fetch is the host's turn. -/
theorem fetchFromWindowIsRefused : Obligations.FetchFromWindowIsRefused := by
  intro s addr ts rest hturn hop hlo hhi
  rw [step_host_op hturn hop]
  exact fetchAccess_of_mem_window hlo hhi _

end Sys2Proof.Machine

/-! The requests the decoder admits (30_encoding.md R63): four bytes at a register's offset. -/

namespace Sys2Proof.Machine

/-- The alignment check of 20_memory.md R45 refuses no register. -/
theorem aligned_of_mem_registerOffsets : ∀ off ∈ registerOffsets, off.toNat % 4 = 0 := by simp [registerOffsets]

/-- The decoder's match reads an instruction exactly from its direction, its register's offset and, for a write, its data. -/
theorem decodeOffset_eq_some_iff (write : Bool) (off wdata : Word) (i : Instr) :
    decodeOffset write off wdata = some i ↔
      write = i.request.write ∧ off = i.request.off ∧ (write = true → wdata = i.request.wdata) := by
  constructor
  · intro h
    unfold decodeOffset at h
    split_ifs at h
    all_goals
      cases h
      simp [Instr.request, *]
  · rintro ⟨rfl, rfl, hdata⟩
    cases i
    case rdData | rdState | rdControl | rdIsr | rdBauddiv => rfl
    case wrData v | wrState v | wrControl v | wrIsr v | wrBauddiv v =>
      rw [hdata rfl]
      rfl

/-- A request decodes exactly when it has four bytes and the match has an arm for its offset: the alignment check never
refuses one that does. -/
theorem decode_eq_ok_iff (r : BusReq) (i : Instr) :
    decode r = .ok i ↔ r.n = 4 ∧ decodeOffset r.write r.off r.wdata = some i := by
  cases harm : decodeOffset r.write r.off r.wdata with
  | none =>
    have hoff := (decodeOffset_eq_none_iff _ _ _).mp harm
    simp [decode_of_unadmitted (.inr (.inr hoff))]
  | some j =>
    have hoff : r.off ∈ registerOffsets := by
      by_contra hnot
      simp [(decodeOffset_eq_none_iff _ _ r.wdata).mpr hnot] at harm
    by_cases hn : r.n = 4
    · simp [decode, hn, aligned_of_mem_registerOffsets _ hoff, harm]
    · simp [decode_of_unadmitted (.inl hn), hn]

/-- Settles O4: the arms of the decoder's match, and the refusal of every other request. -/
theorem decodeReadsDirectionOffsetAndData : Obligations.DecodeReadsDirectionOffsetAndData :=
  ⟨fun r i => by rw [decode_eq_ok_iff, decodeOffset_eq_some_iff], fun _ => decode_of_unadmitted⟩

end Sys2Proof.Machine

/-! The word of each register access and the meaning it decodes to (30_encoding.md R62, 40_register_access.md R71 to R80): the
returned bits, the stored bits, the frame. -/

namespace Sys2Proof.Machine

/-- An instruction decodes from its selector, over its data for a write and over any bits for a read (30_encoding.md R57,
R62). -/
theorem decodeWord_selector_append (i : Instr) (v : Word) (h : i.request.write = true → v = i.request.wdata) :
    decodeWord (selector i ++ v) = .ok i := by
  have hwrite : (selector i).getLsbD 5 = i.request.write := by cases i <;> simp [selector, Instr.request]
  have hoff : ((selector i).setWidth 5).setWidth 32 = i.request.off := by
    cases i <;> simp [selector, Instr.request]
  rw [decodeWord, requestOfWord_append, decode_eq_ok_iff, decodeOffset_eq_some_iff]
  exact ⟨rfl, hwrite, hoff, fun hw => h (hwrite ▸ hw)⟩

/-- A read decodes from its selector whatever the ignored bits. -/
theorem decodeWord_selector_append_of_read {i : Instr} (h : i.request.write = false) (ignored : Word) :
    decodeWord (selector i ++ ignored) = .ok i :=
  decodeWord_selector_append i ignored fun hw => absurd hw (by simp [h])

theorem controlWord_getLsbD (s : State) (k : Nat) : (controlWord s).getLsbD k = s.control.getLsbD k := by
  rw [controlWord, ← BitVec.setWidth'_eq (by decide : 7 ≤ 32), BitVec.getLsbD_setWidth']

theorem isrWord_getLsbD (s : State) (k : Nat) : (isrWord s).getLsbD k = s.isr.getLsbD k := by
  rw [isrWord, ← BitVec.setWidth'_eq (by decide : 4 ≤ 32), BitVec.getLsbD_setWidth']

/-- Settles O13: the byte found is returned and consumed, and the poll is used up. -/
theorem readDataReturnsAndConsumesTheByte : Obligations.ReadDataReturnsAndConsumesTheByte := by
  refine ⟨decodeWord_selector_append_of_read (i := .rdData) rfl, fun s =>
    ⟨_, rfl, fun b hb => ?_, fun hnone => ?_, dataWord_getLsbD_of_le (receivedByte s), rfl, rfl, rfl, rfl,
      append_hazardOf s, ?_⟩⟩
  · simp [receivedByte, dataWord, hb]
  · simp [receivedByte, dataWord, hnone]
  · simp [SameSettings, SameTransmitSide, SameHostSide]

/-- `WR data` accepts the byte into the empty buffer, and else overflows (40_register_access.md R72). -/
theorem exec_wrData_cases (v : Word) (s : State) :
    (s.txFull = false ∧ exec (.wrData v) s = .next (afterDataAccess (acceptByte (dataBits v) s))) ∨
      (s.txFull = true ∧ exec (.wrData v) s = .next (afterDataAccess (overrunByte (dataBits v) s))) := by
  cases h : s.txFull <;> simp [exec, execWrData, h]

/-- Which byte an overflow leaves is the free choice (40_register_access.md R72; log entry 4). -/
theorem overrunByte_txByte (c : Byte) (s : State) :
    (overrunByte c s).txByte = if Config.txOverrunKeepsOld s.draws = true then s.txByte else c := by
  simp [overrunByte, cond_eq_ite]

/-- An overflow sets `isr[2]` under its enable (60_exceptions.md R114). -/
theorem overrunByte_isr (c : Byte) (s : State) :
    (overrunByte c s).isr = if s.control.getLsbD 4 = true then s.isr ||| 0b0100#4 else s.isr := by
  simp [overrunByte, irqEnableBit, irqStatusBit, cond_eq_ite]

/-- Settles O14, by whether the buffer is empty or full. -/
theorem writeDataBuffersOrOverflows : Obligations.WriteDataBuffersOrOverflows := by
  refine ⟨fun v => decodeWord_selector_append (.wrData v) v fun _ => rfl, fun s v => ?_⟩
  rcases exec_wrData_cases v s with ⟨hempty, hexec⟩ | ⟨hfull, hexec⟩
  · refine ⟨_, hexec, fun _ => ⟨dataBits_eq_setWidth v, rfl, rfl⟩, fun hfull => ?_, rfl, rfl, rfl, append_hazardOf s, ?_⟩
    · simp [hempty] at hfull
    · simp [SameSettings, SameReceiveSide, SameHostSide]
  · refine ⟨_, hexec, fun hempty => ?_, fun _ => ⟨?_, rfl, overrunByte_isr _ s⟩, hfull, rfl, rfl, append_hazardOf s, ?_⟩
    · simp [hfull] at hempty
    · rw [← dataBits_eq_setWidth]
      exact overrunByte_txByte _ s
    · simp [overrunByte, SameSettings, SameReceiveSide, SameHostSide]

/-- Settles O15: the word read is the `state` view. -/
theorem readStateReturnsTheFourFlags : Obligations.ReadStateReturnsTheFourFlags := by
  refine ⟨decodeWord_selector_append_of_read (i := .rdState) rfl, fun s =>
    ⟨_, rfl, stateWord_getLsbD s 0, stateWord_getLsbD s 1, stateWord_getLsbD s 2, stateWord_getLsbD s 3, fun k hk => ?_, rfl,
      ?_⟩⟩
  · obtain ⟨j, rfl⟩ := Nat.exists_eq_add_of_le' hk
    exact stateWord_getLsbD s (j + 4)
  · simp [SameSettings, SameTransmitSide, SameReceiveSide, SameHostSide]

/-- Settles O17: the word read is `control`, zero-extended. -/
theorem readControlReturnsTheSevenBits : Obligations.ReadControlReturnsTheSevenBits := by
  refine ⟨decodeWord_selector_append_of_read (i := .rdControl) rfl, fun s =>
    ⟨_, rfl, fun k _ => controlWord_getLsbD s k, fun k hk => ?_, ?_⟩⟩
  · exact (controlWord_getLsbD s k).trans (BitVec.getLsbD_of_ge _ k hk)
  · simp [SameRecord, SameSettings, SameTransmitSide, SameReceiveSide, SameHostSide]

/-- Settles O19: the word read is `isr`, zero-extended, before it is cleared. -/
theorem readIsrReturnsAndClearsTheBits : Obligations.ReadIsrReturnsAndClearsTheBits := by
  refine ⟨decodeWord_selector_append_of_read (i := .rdIsr) rfl, fun s =>
    ⟨_, rfl, fun k _ => isrWord_getLsbD s k, fun k hk => ?_, rfl, ?_⟩⟩
  · exact (isrWord_getLsbD s k).trans (BitVec.getLsbD_of_ge _ k hk)
  · simp [SameSettings, SameTransmitSide, SameReceiveSide, SameHostSide]

/-- Settles O21: the word read is the draw. -/
theorem readBauddivReturnsADraw : Obligations.ReadBauddivReturnsADraw := by
  refine ⟨decodeWord_selector_append_of_read (i := .rdBauddiv) rfl, fun s => ⟨_, rfl, rfl, rfl, ?_⟩⟩
  simp [SameRecord, SameSettings, SameTransmitSide, SameReceiveSide, SameHostSide]

/-- The bookkeeping of a register write stales a fresh poll and keeps the rest (40_register_access.md R81). -/
theorem afterRegisterWrite_frame (s : State) :
    (afterRegisterWrite s).poll = (if s.poll = .fresh then .stale else s.poll) ∧
      SameSettings s (afterRegisterWrite s) ∧ SameTransmitSide s (afterRegisterWrite s) ∧
      SameReceiveSide s (afterRegisterWrite s) ∧ (afterRegisterWrite s).isr = s.isr ∧
      (afterRegisterWrite s).faults = s.faults ∧ (afterRegisterWrite s).refused = s.refused ∧
      (afterRegisterWrite s).rdata = s.rdata ∧ SameHostSide s (afterRegisterWrite s) := by
  simp [afterWrite_eq, SameSettings, SameTransmitSide, SameReceiveSide, SameHostSide]

/-- Settles O16: a write to the read-only register is its poll bookkeeping alone. -/
theorem writeStateChangesNoBlockState : Obligations.WriteStateChangesNoBlockState :=
  ⟨fun v => decodeWord_selector_append (.wrState v) v fun _ => rfl, fun s _ => ⟨_, rfl, afterRegisterWrite_frame s⟩⟩

/-- Settles O20: a write to the read-only register is its poll bookkeeping alone. -/
theorem writeIsrChangesNoBlockState : Obligations.WriteIsrChangesNoBlockState :=
  ⟨fun v => decodeWord_selector_append (.wrIsr v) v fun _ => rfl, fun s _ => ⟨_, rfl, afterRegisterWrite_frame s⟩⟩

/-- The condition of 40_register_access.md R76, in the bits of the register and of the data. -/
theorem clearsTxEn_iff (v : Word) (s : State) :
    clearsTxEn v s = true ↔ s.control.getLsbD 0 = true ∧ v.getLsbD 0 = false := by
  simp [clearsTxEn, txEnabled, txEnBit]

/-- The condition of 40_register_access.md R80. -/
theorem changesDivisor_iff (v : Word) (s : State) : changesDivisor v s = true ↔ divisorBits v ≠ s.bauddiv := by
  simp [changesDivisor]

/-- Settles O18: the frame in flight is disturbed exactly when the write clears `TX_EN`. -/
theorem writeControlSetsTheSevenBits : Obligations.WriteControlSetsTheSevenBits := by
  refine ⟨fun v => decodeWord_selector_append (.wrControl v) v fun _ => rfl, fun s v =>
    ⟨_, rfl, fun k hk => ?_, fun hclears => ?_, fun hkeeps => ?_, afterWrite_eq s.poll, ?_⟩⟩
  · simp [controlBits_eq_setWidth, hk]
  · rw [(clearsTxEn_iff v s).mpr hclears]
    exact disturbWhen_true_keptOrLastReplaced s
  · have hnot : clearsTxEn v s = false := by
      rw [Bool.eq_false_iff, ne_eq, clearsTxEn_iff]
      simpa [imp_iff_not_or] using hkeeps
    simp [hnot]
  · simp [SameReceiveSide, SameHostSide]

/-- Settles O22: the frame in flight is disturbed exactly when the stored divisor changes. -/
theorem writeBauddivStoresTheDivisor : Obligations.WriteBauddivStoresTheDivisor := by
  refine ⟨fun v => decodeWord_selector_append (.wrBauddiv v) v fun _ => rfl, fun s v =>
    ⟨_, rfl, lowBits_getLsbD Config.bauddivWidth v, fun hchanges => ?_, fun hsame => ?_, afterWrite_eq s.poll, ?_⟩⟩
  · rw [(changesDivisor_iff v s).mpr hchanges]
    exact disturbWhen_true_keptOrLastReplaced s
  · have hnot : changesDivisor v s = false := Bool.eq_false_iff.mpr fun h => (changesDivisor_iff v s).mp h hsame
    simp [hnot]
  · simp [SameReceiveSide, SameHostSide]

end Sys2Proof.Machine

/-! What the transactions have in common: the poll bookkeeping (40_register_access.md R81), the line left alone (R82). -/

namespace Sys2Proof.Machine

/-- Settles O23, by what `poll_update` makes of each transaction. -/
theorem pollBookkeepingOfEveryTransaction : Obligations.PollBookkeepingOfEveryTransaction := by
  intro i s
  cases i
  case rdState | rdControl | rdIsr | rdBauddiv => exact ⟨_, rfl, rfl, rfl⟩
  case wrControl | wrState | wrIsr | wrBauddiv => exact ⟨_, rfl, afterWrite_eq s.poll, rfl⟩
  case rdData => exact ⟨_, rfl, rfl, append_hazardOf s⟩
  case wrData v =>
    rcases exec_wrData_cases v s with ⟨-, hexec⟩ | ⟨-, hexec⟩
    · exact ⟨_, hexec, rfl, append_hazardOf s⟩
    · exact ⟨_, hexec, rfl, append_hazardOf s⟩

/-- Does a transaction disturb the frame in flight? Only the two reconfiguring writes may (41_line_engines.md R94). -/
def disturbsFrame : Instr → State → Bool
  | .wrControl v, s => clearsTxEn v s
  | .wrBauddiv v, s => changesDivisor v s
  | .rdData, _ | .wrData _, _ | .rdState, _ | .wrState _, _ | .rdControl, _ | .rdIsr, _ | .wrIsr _, _ | .rdBauddiv, _ => false

theorem reconfigures_of_disturbsFrame {i : Instr} {s : State} (h : disturbsFrame i s = true) :
    ∃ v, i = .wrControl v ∨ i = .wrBauddiv v := by
  cases i
  case wrControl v => exact ⟨v, .inl rfl⟩
  case wrBauddiv v => exact ⟨v, .inr rfl⟩
  all_goals simp [disturbsFrame] at h

/-- A transaction does nothing to the wire but disturb the frame in flight, and keeps the received byte; it fills no receive
buffer and empties no transmit buffer. -/
theorem exec_wireOut_and_buffers (i : Instr) (s : State) :
    ∃ t, exec i s = .next t ∧ t.wireOut = (disturbWhen (disturbsFrame i s) s).wireOut ∧ t.rxByte = s.rxByte ∧
      (t.rxFull = true → s.rxFull = true) ∧ (s.txFull = true → t.txFull = true) := by
  cases i
  case rdData => exact ⟨_, rfl, rfl, rfl, by simp, id⟩
  case wrData v =>
    rcases exec_wrData_cases v s with ⟨-, hexec⟩ | ⟨-, hexec⟩
    · exact ⟨_, hexec, rfl, rfl, id, fun _ => rfl⟩
    · exact ⟨_, hexec, rfl, rfl, id, id⟩
  all_goals exact ⟨_, rfl, rfl, rfl, id, id⟩

/-- Settles O24: the only thing a transaction may do to the wire is `in_flight_disturb()`. -/
theorem noTransactionMovesTheLine : Obligations.NoTransactionMovesTheLine := by
  intro i s
  obtain ⟨t, hexec, hwire, hbuffers⟩ := exec_wireOut_and_buffers i s
  refine ⟨t, hexec, ?_, ?_, fun hchanged => ?_, hbuffers⟩
  · rw [hwire, length_disturbWhen]
  · rw [hwire, dropLast_disturbWhen]
  · by_cases hd : disturbsFrame i s = true
    · exact reconfigures_of_disturbsFrame hd
    · simp [hwire, hd] at hchanged

end Sys2Proof.Machine

/-! The engines' turns: `TX_STEP` (41_line_engines.md R86), `RX_BYTE b` (R88, R89), on the state with the turn taken off the
schedule. -/

namespace Sys2Proof.Machine

theorem step_of_transmitter {s : State} (h : nextTurn s = .transmitter) : step s = .next (txStep (turnTaken s)) := by
  rw [step, h]
  rfl

theorem step_of_receiver {s : State} {b : Byte} (h : nextTurn s = .receiver b) :
    step s = .next (rxStep b (turnTaken s)) := by
  rw [step, h]
  rfl

@[simp] theorem sameSettings_turnTaken (s t : State) : SameSettings (turnTaken s) t ↔ SameSettings s t := by
  simp [SameSettings]

@[simp] theorem sameTransmitSide_turnTaken (s t : State) : SameTransmitSide (turnTaken s) t ↔ SameTransmitSide s t := by
  simp [SameTransmitSide]

@[simp] theorem sameReceiveSide_turnTaken (s t : State) : SameReceiveSide (turnTaken s) t ↔ SameReceiveSide s t := by
  simp [SameReceiveSide]

/-- Taking the turn off the schedule leaves the record alone. -/
theorem sameRecord_turnTaken_right (s : State) : SameRecord s (turnTaken s) := by
  simp [SameRecord, SameSettings, SameTransmitSide, SameReceiveSide]

/-- The byte a turn moves over the line: itself, or a draw under a divisor that is not valid (41_line_engines.md R92). -/
theorem lineByte_turnTaken (b : Byte) (s : State) :
    lineByte b (turnTaken s) = if baudValid s.bauddiv = true then b else Config.freeByte (turnTaken s).draws := by
  rw [lineByte, turnTaken_bauddiv, cond_eq_ite]

/-- An event's effect on `isr`, as the pseudocode of 41_line_engines.md puts it. -/
theorem raiseIrq_isr_eq_ite (k : IrqSource) (s : State) :
    (raiseIrq k s).isr =
      if s.control.getLsbD (irqEnableBit k) = true then s.isr ||| (1#4 <<< irqStatusBit k) else s.isr := by
  rw [raiseIrq_isr, cond_eq_ite]

/-- `TX_STEP` where it is enabled (41_line_engines.md R85, R86). -/
theorem txStep_of_enabled {s : State} (hen : s.control.getLsbD 0 = true) (hfull : s.txFull = true) :
    txStep s =
      raiseIrq .transmit (countDraw { s with wireOut := s.wireOut ++ [lineByte s.txByte s], txFull := false }) := by
  simp [txStep, txStepEnabled, txEnabled, txEnBit, hen, hfull]

/-- `RX_BYTE b` where it is enabled and finds the buffer empty (41_line_engines.md R88). -/
theorem rxStep_of_empty (b : Byte) {s : State} (hen : s.control.getLsbD 1 = true) (hempty : s.rxFull = false) :
    rxStep b s = storeReceived b s := by
  simp [rxStep, rxEnabled, rxEnBit, hen, hempty]

/-- `RX_BYTE b` where it is enabled and finds the buffer full (41_line_engines.md R88). -/
theorem rxStep_of_full (b : Byte) {s : State} (hen : s.control.getLsbD 1 = true) (hfull : s.rxFull = true) :
    rxStep b s = overrunReceived b s := by
  simp [rxStep, rxEnabled, rxEnBit, hen, hfull]

/-- With `RX_EN` 0 the receiver does nothing (41_line_engines.md R89). -/
theorem rxStep_of_disabled (b : Byte) {s : State} (hdis : s.control.getLsbD 1 = false) : rxStep b s = s :=
  if_neg (by simpa [rxEnabled, rxEnBit] using hdis)

/-- Which byte a receive overflow leaves is the free choice (41_line_engines.md R88; log entry 5). -/
theorem overrunReceived_rxByte (b : Byte) (s : State) :
    (overrunReceived b s).rxByte =
      if Config.rxOverrunKeepsOld s.draws = true then s.rxByte else some (lineByte b s) :=
  cond_eq_ite ..

/-- With `RX_EN` 1 the receiver's step ends with a full buffer (41_line_engines.md R88). -/
theorem rxStep_rxFull_of_enabled (b : Byte) {s : State} (hen : s.control.getLsbD 1 = true) :
    (rxStep b s).rxFull = true := by
  cases hfull : s.rxFull with
  | false =>
    rw [rxStep_of_empty b hen hfull]
    rfl
  | true =>
    rw [rxStep_of_full b hen hfull]
    exact hfull

/-- What the transmitter's turn keeps of the state before it (41_line_engines.md R97). -/
theorem txStep_turnTaken_frame (s : State) :
    (txStep (turnTaken s)).txByte = s.txByte ∧ (txStep (turnTaken s)).txOvf = s.txOvf ∧
      SameSettings s (txStep (turnTaken s)) ∧ SameReceiveSide s (txStep (turnTaken s)) ∧
      (txStep (turnTaken s)).poll = s.poll ∧ (txStep (turnTaken s)).faults = s.faults ∧
      (txStep (turnTaken s)).refused = s.refused ∧ (txStep (turnTaken s)).rdata = s.rdata ∧
      (txStep (turnTaken s)).program = s.program ∧ (txStep (turnTaken s)).returns = s.returns := by
  have hframe := txStep_frame (turnTaken s)
  simp_all [SameHostSide]

/-- What the receiver's turn keeps of the state before it (41_line_engines.md R97). -/
theorem rxStep_turnTaken_frame (b : Byte) (s : State) :
    SameSettings s (rxStep b (turnTaken s)) ∧ SameTransmitSide s (rxStep b (turnTaken s)) ∧
      (rxStep b (turnTaken s)).poll = s.poll ∧ (rxStep b (turnTaken s)).faults = s.faults ∧
      (rxStep b (turnTaken s)).refused = s.refused ∧ (rxStep b (turnTaken s)).rdata = s.rdata ∧
      (rxStep b (turnTaken s)).program = s.program ∧ (rxStep b (turnTaken s)).returns = s.returns := by
  have hframe := rxStep_frame b (turnTaken s)
  simp_all [SameHostSide]

/-- Settles O30: the enabled `TX_STEP` fixes the wire, the flag and `isr`, its frame the rest. -/
theorem transmitterSendsTheBufferedByte : Obligations.TransmitterSendsTheBufferedByte := by
  intro s hturn hen hfull
  have hsends := txStep_of_enabled (s := turnTaken s) (by simpa using hen) (by simpa using hfull)
  refine ⟨_, step_of_transmitter hturn, ?_, ?_, ?_, txStep_turnTaken_frame s⟩
  · rw [hsends, ← lineByte_turnTaken]
    simp
  · rw [hsends]
    rfl
  · rw [hsends, raiseIrq_isr_eq_ite]
    simp [irqEnableBit, irqStatusBit]

/-- Settles O32, by whether the byte finds the buffer empty or full. -/
theorem receiverStoresOrOverflows : Obligations.ReceiverStoresOrOverflows := by
  intro s b hturn hen
  have hen' : (turnTaken s).control.getLsbD 1 = true := by simpa using hen
  refine ⟨_, lineByte b (turnTaken s), step_of_receiver hturn, lineByte_turnTaken b s, fun hempty => ?_, fun hfull => ?_,
    rxStep_rxFull_of_enabled b hen', rxStep_turnTaken_frame b s⟩
  · rw [rxStep_of_empty b hen' (by simpa using hempty)]
    refine ⟨rfl, by simp [storeReceived], ?_⟩
    rw [storeReceived, raiseIrq_isr_eq_ite]
    simp [irqEnableBit, irqStatusBit]
  · rw [rxStep_of_full b hen' (by simpa using hfull)]
    refine ⟨by rw [overrunReceived_rxByte, turnTaken_rxByte], rfl, ?_⟩
    rw [overrunReceived, raiseIrq_isr_eq_ite]
    simp [irqEnableBit, irqStatusBit]

/-- Settles O33: all that happens is that the turn is taken. -/
theorem disabledReceiverLosesTheByte : Obligations.DisabledReceiverLosesTheByte := by
  intro s b hturn hdis
  have hlost : rxStep b (turnTaken s) = turnTaken s := rxStep_of_disabled b (by simpa using hdis)
  refine ⟨turnTaken s, ?_, sameRecord_turnTaken_right s, turnTaken_rdata s, turnTaken_program s, turnTaken_returns s⟩
  rw [step_of_receiver hturn, hlost]

end Sys2Proof.Machine

/-! The frame in flight under reconfiguration (41_line_engines.md R94), in terms of what the transaction changed. -/

namespace Sys2Proof.Machine

/-- A transaction calls `in_flight_disturb()` exactly when it changes the stored divisor or takes `TX_EN` from 1 to 0. -/
theorem disturbsFrame_iff {i : Instr} {s t : State} (h : exec i s = .next t) :
    disturbsFrame i s = true ↔
      t.bauddiv ≠ s.bauddiv ∨ (s.control.getLsbD 0 = true ∧ t.control.getLsbD 0 = false) := by
  cases i
  case wrControl v =>
    cases h
    simp [disturbsFrame, clearsTxEn_iff, controlBits_eq_setWidth]
  case wrBauddiv v =>
    cases h
    simp [disturbsFrame, changesDivisor_iff]
  case wrData v =>
    rcases exec_wrData_cases v s with ⟨-, hexec⟩ | ⟨-, hexec⟩
    all_goals
      cases hexec.symm.trans h
      simp [disturbsFrame, overrunByte]
  all_goals
    cases h
    simp [disturbsFrame]

/-- Settles O25: the wire is `in_flight_disturb()`'s exactly where something was reconfigured. -/
theorem reconfiguringDisturbsOnlyTheLastByte : Obligations.ReconfiguringDisturbsOnlyTheLastByte := by
  intro s i hi
  obtain ⟨t, hexec, hwire, -⟩ := exec_wireOut_and_buffers i s
  refine ⟨t, hexec, fun hchanged => ?_, fun hdivisor henable => ?_, ?_⟩
  · rw [hwire, (disturbsFrame_iff hexec).mpr hchanged]
    exact disturbWhen_true_keptOrLastReplaced s
  · have hnot : disturbsFrame i s = false := by
      rw [Bool.eq_false_iff, ne_eq, disturbsFrame_iff hexec]
      simpa [hdivisor, imp_iff_not_or] using henable
    rw [hwire, hnot, disturbWhen_false]
  · obtain ⟨v, rfl | rfl⟩ := hi
    all_goals
      cases hexec
      simp [SameReceiveSide]

end Sys2Proof.Machine

/-! The divisor arithmetic of `INIT` (42_driver.md R109), and its two writes (R99, R100). -/

namespace Sys2Proof.Machine

theorem divisorFor_le (r : Nat) : divisorFor r ≤ 25000000 := Nat.div_le_self _ _

/-- Every divisor `INIT` computes fits 25 bits (42_driver.md R109). -/
theorem divisorFor_lt_two_pow (r : Nat) : divisorFor r < 2 ^ 25 := (divisorFor_le r).trans_lt (by decide)

/-- Rounding down, the divisor gives at most the clock, and the next divisor more (42_driver.md R109). -/
theorem divisorFor_mul_bounds {r : Nat} (hr : 1 ≤ r) :
    divisorFor r * r ≤ 25000000 ∧ 25000000 < (divisorFor r + 1) * r :=
  ⟨Nat.div_mul_le_self _ _, Nat.lt_mul_of_div_lt (Nat.lt_succ_self _) hr⟩

theorem divisorFor_mul_eq_iff_dvd (r : Nat) : divisorFor r * r = 25000000 ↔ r ∣ 25000000 :=
  (Nat.dvd_iff_div_mul_eq _ _).symm

/-- A number that fits the width, and a word, is kept whole. -/
theorem toNat_lowBits_ofNat {width n : Nat} (hwidth : n < 2 ^ width) (hword : n < 2 ^ 32) :
    (lowBits width (BitVec.ofNat 32 n)).toNat = n := by
  rw [lowBits, BitVec.toNat_setWidth, BitVec.toNat_setWidth, BitVec.toNat_ofNat, Nat.mod_eq_of_lt hword,
    Nat.mod_eq_of_lt hwidth, Nat.mod_eq_of_lt hword]

/-- No width of 25 bits or more cuts a divisor (42_driver.md R109). -/
theorem toNat_lowBits_divisorFor (r : Nat) {width : Nat} (h : 25 ≤ width) :
    (lowBits width (BitVec.ofNat 32 (divisorFor r))).toNat = divisorFor r :=
  have hfits {w : Nat} (hw : 25 ≤ w) : divisorFor r < 2 ^ w :=
    (divisorFor_lt_two_pow r).trans_le (Nat.pow_le_pow_right (by decide) hw)
  toNat_lowBits_ofNat (hfits h) (hfits (by decide))

/-- `INIT 0` makes no access: it only sets the refusal mark (42_driver.md R101). -/
theorem runHostOp_init_zero (s : State) : runHostOp (.call (.init 0)) s = .next { s with refused := true } := rfl

/-- Settles O49, from the laws of the rounded-down quotient. -/
theorem divisorArithmeticLaws : Obligations.DivisorArithmeticLaws := by
  refine ⟨fun r hr => ?_, by decide, by decide, by decide, by decide, by decide, by decide, runHostOp_init_zero⟩
  obtain ⟨hle, hlt⟩ := divisorFor_mul_bounds hr
  exact ⟨hle, hlt, divisorFor_mul_eq_iff_dvd r, divisorFor_le r, Nat.div_eq_of_lt,
    fun _ => toNat_lowBits_divisorFor r⟩

/-- The control write that ends an `INIT` leaves nothing of the call (42_driver.md R100). -/
theorem callTurn_initControl {s t : State} (ht : exec (.wrControl 0x3#32) s = .next t) :
    callTurn uartHandle .initControl s = .next t :=
  callTurn_of_access (rest := fun _ => .ends none) (driverTurn_uartHandle .initControl s) ht

/-- The first turn of `INIT r`: the divisor write, the control write being left (42_driver.md R99). -/
theorem step_init {s t : State} {r : Nat} {ts : List Turn} {rest : List HostOp} (hr : r ≠ 0)
    (hturn : s.turns = .host :: ts) (hop : s.program = .call (.init r) :: rest)
    (ht : exec (.wrBauddiv (BitVec.ofNat 32 (divisorFor r))) { s with turns := ts, program := rest } = .next t) :
    step s = .next (pushOps [.call .initControl] t) :=
  (step_host_op hturn hop).trans (callTurn_init hr ht)

/-- The second turn of an `INIT`: the control write (42_driver.md R100). -/
theorem step_initControl {s t : State} {ts : List Turn} {rest : List HostOp}
    (hturn : s.turns = .host :: ts) (hop : s.program = .call .initControl :: rest)
    (ht : exec (.wrControl 0x3#32) { s with turns := ts, program := rest } = .next t) : step s = .next t :=
  (step_host_op hturn hop).trans (callTurn_initControl ht)

/-- Settles O50: the turn of the divisor write, then the turn of the control write, which finds it left. -/
theorem initWritesDivisorThenControl : Obligations.InitWritesDivisorThenControl := by
  intro s r ts rest hr hturn hop
  refine ⟨divisorFor_lt_two_pow r, _, _, step_init (Nat.ne_of_gt hr) hturn hop rfl,
    step_initControl (ts := ts) (rest := rest) rfl rfl rfl, ?_⟩
  have hbits : controlBits 0x3#32 = 0b0000011#7 := by decide
  simp [hbits, divisorBits, divisorFor, Config.pclkHz]

end Sys2Proof.Machine

/-! Interrupts: every transaction completes (60_exceptions.md R113), the events that set the `isr` bits (R114), what clears
them (R115), the outputs (R116). -/

namespace Sys2Proof.Machine

/-- Settles O7: each of the ten meanings answers a next state. -/
theorem everyTransactionCompletes : Obligations.EveryTransactionCompletes := by
  intro i s
  cases i <;> exact ⟨_, rfl⟩

/-- The combined output is low exactly when no bit is pending (60_exceptions.md R116). -/
theorem irqAny_eq_false_iff (s : State) : irqAny s = false ↔ s.isr = 0#4 := by
  simp only [irqAny, irqOutput, irqStatusBit, Bool.or_eq_false_iff]
  constructor
  · rintro ⟨⟨⟨h0, h1⟩, h2⟩, h3⟩
    apply BitVec.eq_of_getLsbD_eq
    intro j hj
    rw [BitVec.getLsbD_zero]
    match j, hj with
    | 0, _ => exact h0
    | 1, _ => exact h1
    | 2, _ => exact h2
    | 3, _ => exact h3
  · intro h
    simp [h]

/-- Settles O40: each output is its bit by definition, and the combined one is low exactly with no bit pending. -/
theorem interruptOutputsFollowIsr : Obligations.InterruptOutputsFollowIsr := by
  intro s
  refine ⟨rfl, rfl, rfl, rfl, ?_⟩
  rw [ne_eq, ← irqAny_eq_false_iff, Bool.not_eq_false]

/-- The step from `s` is the event of `isr` bit `k`, with its enable 1 (60_exceptions.md R114). -/
def SetsIsrBit (s : State) (k : Nat) : Prop :=
  s.control.getLsbD (k + 2) = true ∧
    ((k = 0 ∧ nextTurn s = .transmitter ∧ s.control.getLsbD 0 = true ∧ s.txFull = true) ∨
      (k = 1 ∧ (∃ b, nextTurn s = .receiver b) ∧ s.control.getLsbD 1 = true ∧ s.rxFull = false) ∨
      (k = 2 ∧ (∃ v, stepTransaction s = some (.wrData v)) ∧ s.txFull = true) ∨
      (k = 3 ∧ (∃ b, nextTurn s = .receiver b) ∧ s.control.getLsbD 1 = true ∧ s.rxFull = true))

/-- The step from `s` is one of the two that clear `isr` (60_exceptions.md R115). -/
def ClearsIsr (s : State) : Prop := nextTurn s = .reset ∨ stepTransaction s = some .rdIsr

theorem SameBlock.isr {s t : State} (h : SameBlock s t) : t.isr = s.isr := by
  obtain ⟨⟨-, -, -, hisr, -⟩, -⟩ := h
  exact hisr

/-- A step that issues a transaction is the host's (00_scope.md R8). -/
theorem nextTurn_of_stepTransaction {s : State} {i : Instr} (h : stepTransaction s = some i) : nextTurn s = .host := by
  by_contra hne
  simp [stepTransaction_of_ne_host hne] at h

/-- A step that clears `isr` is no source's event. -/
theorem not_setsIsrBit_of_clearsIsr {s : State} (h : ClearsIsr s) (k : Nat) : ¬ SetsIsrBit s k := by
  rcases h with hreset | hread
  · simp [SetsIsrBit, hreset, stepTransaction_of_ne_host]
  · simp [SetsIsrBit, nextTurn_of_stepTransaction hread, hread]

/-- The event of a source pends its own bit, under the enable two places above it in `control` (10_state.md R28). -/
theorem raiseIrq_isr_getLsbD_iff (q : IrqSource) (s : State) (k : Nat) :
    (raiseIrq q s).isr.getLsbD k = true ↔
      s.isr.getLsbD k = true ∨ (k = irqStatusBit q ∧ s.control.getLsbD (k + 2) = true) := by
  have henable : irqEnableBit q = irqStatusBit q + 2 := by cases q <;> rfl
  rw [raiseIrq_isr_getLsbD, henable, Bool.or_eq_true, Bool.and_eq_true, beq_iff_eq, and_comm]
  exact or_congr_right (and_congr_right fun hk => by rw [hk])

/-- The transmitter's turn pends bit 0 exactly where `TX_STEP` is enabled (41_line_engines.md R86). -/
theorem txStep_isr_getLsbD (s : State) (k : Nat) :
    (txStep s).isr.getLsbD k = true ↔
      s.isr.getLsbD k = true ∨
        (s.control.getLsbD (k + 2) = true ∧ k = 0 ∧ s.control.getLsbD 0 = true ∧ s.txFull = true) := by
  by_cases hen : s.control.getLsbD 0 = true ∧ s.txFull = true
  · rw [txStep_of_enabled hen.1 hen.2, raiseIrq_isr_getLsbD_iff]
    simp only [hen, irqStatusBit, countDraw_isr, countDraw_control]
    tauto
  · have hidle : txStep s = s := if_neg (by simpa [txStepEnabled, txEnabled, txEnBit] using hen)
    rw [hidle]
    tauto

/-- The receiver's turn, enabled, pends bit 1 where it finds the buffer empty and bit 3 where it finds it full
(41_line_engines.md R88, R89). -/
theorem rxStep_isr_getLsbD (b : Byte) (s : State) (k : Nat) :
    (rxStep b s).isr.getLsbD k = true ↔
      s.isr.getLsbD k = true ∨
        (s.control.getLsbD (k + 2) = true ∧
          ((k = 1 ∧ s.control.getLsbD 1 = true ∧ s.rxFull = false) ∨
            (k = 3 ∧ s.control.getLsbD 1 = true ∧ s.rxFull = true))) := by
  cases hen : s.control.getLsbD 1 with
  | false => simp [rxStep_of_disabled b hen]
  | true => cases hfull : s.rxFull with
    | false =>
      rw [rxStep_of_empty b hen hfull, storeReceived, raiseIrq_isr_getLsbD_iff]
      simp [irqStatusBit, and_comm]
    | true =>
      rw [rxStep_of_full b hen hfull, overrunReceived, raiseIrq_isr_getLsbD_iff]
      simp [irqStatusBit, and_comm]

/-- Of the transactions but `RD isr`, only `WR data` into the full buffer touches `isr`: it pends bit 2
(40_register_access.md R72). -/
theorem exec_isr_getLsbD {i : Instr} {s u : State} (h : exec i s = .next u) (hi : i ≠ .rdIsr) (k : Nat) :
    u.isr.getLsbD k = true ↔
      s.isr.getLsbD k = true ∨
        (s.control.getLsbD (k + 2) = true ∧ k = 2 ∧ (∃ v, i = .wrData v) ∧ s.txFull = true) := by
  cases i
  case rdIsr => exact absurd rfl hi
  case wrData v =>
    rcases exec_wrData_cases v s with ⟨hempty, hexec⟩ | ⟨hfull, hexec⟩
    · cases hexec.symm.trans h
      simp [hempty]
    · cases hexec.symm.trans h
      rw [afterDataAccess_isr, overrunByte, raiseIrq_isr_getLsbD_iff]
      simp [hfull, irqStatusBit, and_comm]
  all_goals
    cases h
    simp

/-- `RD isr` clears all four bits (40_register_access.md R77). -/
theorem isr_of_exec_rdIsr {s u : State} (h : exec .rdIsr s = .next u) : u.isr = 0#4 := by
  cases h
  rfl

theorem step_of_reset {s : State} (h : nextTurn s = .reset) : step s = .next (platformReset (turnTaken s)) := by
  rw [step, h]
  rfl

/-- A read of `isr` and a reset clear all four bits (60_exceptions.md R115). -/
theorem isr_of_clearsIsr {s t : State} (h : step s = .next t) (hclears : ClearsIsr s) : t.isr = 0#4 := by
  rcases hclears with hreset | hread
  · cases (step_of_reset hreset).symm.trans h
    rfl
  · have hturn := nextTurn_of_stepTransaction hread
    rw [step, hturn] at h
    rcases hostTurn_turnTaken_cases hturn h with ⟨i, u, hi, hu, hut⟩ | ⟨hnone, -⟩
    · cases hread.symm.trans hi
      rw [hut.isr, isr_of_exec_rdIsr hu]
    · simp [hnone] at hread

/-- Over the host's turn, unless it reads `isr`, the bits pending after are those pending before and the one set. -/
theorem hostTurn_isr_getLsbD {s t : State} (hturn : nextTurn s = .host) (h : hostTurn (turnTaken s) = .next t)
    (hread : stepTransaction s ≠ some .rdIsr) (k : Nat) :
    t.isr.getLsbD k = true ↔ s.isr.getLsbD k = true ∨ SetsIsrBit s k := by
  rcases hostTurn_turnTaken_cases hturn h with ⟨i, u, hi, hu, hut⟩ | ⟨hnone, hst | hst⟩
  · have hne : i ≠ .rdIsr := by
      rintro rfl
      exact hread hi
    rw [hut.isr, exec_isr_getLsbD hu hne]
    simp [SetsIsrBit, hturn, hi]
  · simp [hst.isr, SetsIsrBit, hturn, hnone]
  · simp [hst.isr, SetsIsrBit, hturn, hnone]

/-- Over a step that does not clear `isr`, the bits pending after are those pending before and the one set. -/
theorem step_isr_getLsbD {s t : State} (h : step s = .next t) (hkeeps : ¬ ClearsIsr s) (k : Nat) :
    t.isr.getLsbD k = true ↔ s.isr.getLsbD k = true ∨ SetsIsrBit s k := by
  obtain ⟨hreset, hread⟩ := not_or.mp hkeeps
  rcases step_cases h with ⟨hturn, ht⟩ | ⟨hturn, rfl⟩ | ⟨b, hturn, rfl⟩ | ⟨hturn, -⟩
  · exact hostTurn_isr_getLsbD hturn ht hread k
  · rw [txStep_isr_getLsbD]
    simp [SetsIsrBit, hturn, stepTransaction_of_ne_host]
  · rw [rxStep_isr_getLsbD]
    simp [SetsIsrBit, hturn, stepTransaction_of_ne_host]
  · exact absurd hturn hreset

/-- Settles O37, by whether the step clears `isr`. -/
theorem isrBitsAreSetExactlyAtTheirEvents : Obligations.IsrBitsAreSetExactlyAtTheirEvents := by
  intro s t k h hclear
  change t.isr.getLsbD k = true ↔ SetsIsrBit s k
  by_cases hclears : ClearsIsr s
  · simp [isr_of_clearsIsr h hclears, not_setsIsrBit_of_clearsIsr hclears]
  · simp [step_isr_getLsbD h hclears, hclear]

/-- Settles O39: a step that does not clear `isr` only adds to the pending bits. -/
theorem pendingBitsClearOnlyOnReadOrReset : Obligations.PendingBitsClearOnlyOnReadOrReset := fun _ _ h =>
  ⟨isr_of_clearsIsr h, fun hreset hread k hpending =>
    (step_isr_getLsbD h (not_or.mpr ⟨hreset, hread⟩) k).mpr (.inl hpending)⟩

end Sys2Proof.Machine

/-! The platform's reset (70_reset_and_hazards.md R127). -/

namespace Sys2Proof.Machine

/-- A reset leaves the record of 10_state.md R36, its `tx_byte` the draw at the counter. -/
theorem sameRecord_platformReset (s : State) :
    SameRecord { State.reset with txByte := Config.freeByte s.draws } (platformReset s) := by
  simp [platformReset, SameRecord, SameSettings, SameTransmitSide, SameReceiveSide]

/-- Settles O46: the reset turn is the platform's reset of the state its turn was taken from. -/
theorem platformResetReturnsTheRecord : Obligations.PlatformResetReturnsTheRecord := fun s hturn =>
  ⟨platformReset (turnTaken s), step_of_reset hturn, sameRecord_platformReset (turnTaken s)⟩

end Sys2Proof.Machine

/-! The canonical word (30_encoding.md R57, R62): decoding and encoding are inverse, but for the bits a read ignores. -/

namespace Sys2Proof.Machine

/-- Settles O1: the decoder evaluates each of the fixed words. -/
theorem transactionWordsDecode : Obligations.TransactionWordsDecode := by
  unfold Obligations.TransactionWordsDecode
  decide

/-- The decoder reads every instruction from its own request. -/
theorem decode_request (i : Instr) : decode i.request = .ok i := by
  have hn : i.request.n = 4 := by cases i <;> rfl
  exact (decode_eq_ok_iff _ _).mpr ⟨hn, (decodeOffset_eq_some_iff _ _ _ _).mpr ⟨rfl, rfl, fun _ => rfl⟩⟩

/-- Settles O2: the word of an instruction names the instruction's own request. -/
theorem decodeOfEncodeIsTheInstruction : Obligations.DecodeOfEncodeIsTheInstruction := by
  intro i
  rw [decodeWord, requestOfWord_encode, decode_request]

/-- The selector is the direction above the low five bits of the offset (30_encoding.md R57). -/
theorem selector_eq_append (i : Instr) : selector i = BitVec.ofBool i.request.write ++ i.request.off.setWidth 5 := by
  cases i <;> simp [selector, Instr.request]

/-- The operand of a write is its request's data, and a read has none (30_encoding.md R57). -/
theorem wordOperand_eq (i : Instr) : wordOperand i = if i.request.write = true then i.request.wdata else 0#32 := by
  cases i <;> rfl

/-- The mask of `T[37:32]`. -/
theorem selectorMask_getLsbD {k : Nat} (hk : k < 38) : (0x3F00000000#38).getLsbD k = decide (32 ≤ k) := by
  revert k
  decide

/-- The selector of a word that decodes is its instruction's. -/
theorem getLsbD_high_of_decodeWord {t : BitVec 38} {i : Instr} (h : decodeWord t = .ok i) {k : Nat} (hk : k < 6) :
    t.getLsbD (32 + k) = (selector i).getLsbD k := by
  obtain ⟨-, harm⟩ := (decode_eq_ok_iff _ _).mp h
  obtain ⟨hwrite, hoff, -⟩ := (decodeOffset_eq_some_iff _ _ _ _).mp harm
  have happ : BitVec.getLsbD (w := 6) (BitVec.ofBool (t.getLsbD 37) ++ (requestOfWord t).off.setWidth 5) k =
      if k < 5 then ((requestOfWord t).off.setWidth 5).getLsbD k else (BitVec.ofBool (t.getLsbD 37)).getLsbD (k - 5) :=
    BitVec.getLsbD_append
  rw [selector_eq_append, ← hwrite, ← hoff]
  refine Eq.trans ?_ happ.symm
  split
  next hk5 => simp [requestOfWord, hk5, -BitVec.getLsbD_eq_getElem]
  next hk5 =>
    obtain rfl : k = 5 := by omega
    simp

/-- The low word of a write that decodes is its instruction's operand, and a read's instruction has none. -/
theorem wordOperand_of_decodeWord {t : BitVec 38} {i : Instr} (h : decodeWord t = .ok i) :
    wordOperand i = if t.getLsbD 37 = true then t.extractLsb' 0 32 else 0#32 := by
  obtain ⟨-, harm⟩ := (decode_eq_ok_iff _ _).mp h
  obtain ⟨hwrite, -, hdata⟩ := (decodeOffset_eq_some_iff _ _ _ _).mp harm
  rw [wordOperand_eq, ← hwrite]
  exact ite_congr rfl (fun hw => (hdata hw).symm) fun _ => rfl

/-- Settles O3, bit by bit: the operand below bit 32 and the selector above it. -/
theorem encodeOfDecodeIsTheWord : Obligations.EncodeOfDecodeIsTheWord := by
  intro t i h
  apply BitVec.eq_of_getLsbD_eq
  intro k hk
  by_cases hlow : k < 32
  · rw [encode_getLsbD_low i k hlow, wordOperand_of_decodeWord h]
    split
    · simp [hlow, -BitVec.getLsbD_eq_getElem]
    · simp [selectorMask_getLsbD hk, hlow, -BitVec.getLsbD_eq_getElem]
  · obtain ⟨j, rfl⟩ := Nat.exists_eq_add_of_le (Nat.le_of_not_lt hlow)
    rw [encode_getLsbD_high i j (by omega), ← getLsbD_high_of_decodeWord h (by omega)]
    split
    · rfl
    · simp [selectorMask_getLsbD hk, -BitVec.getLsbD_eq_getElem]

end Sys2Proof.Machine

/-! The step of the host: the request it runs, and that it always answers a next state. -/

namespace Sys2Proof.Machine

theorem busAccess_of_decode_ok {r : BusReq} {i : Instr} (h : decode r = .ok i) (s : State) : busAccess r s = exec i s := by
  rw [busAccess, h]

/-- Settles O5: a bus request is the transaction it decodes to. -/
theorem stepRunsTheDecodedTransaction : Obligations.StepRunsTheDecodedTransaction := by
  intro s r i ts rest hturn hop hdecode
  rw [step_host_op hturn hop]
  exact busAccess_of_decode_ok hdecode _

theorem decode_of_decodeTableWord {nbits w : Nat} {i : Instr} (h : decodeTableWord nbits w = some i) :
    decode (requestOfTable nbits w) = .ok i := by
  cases hd : decode (requestOfTable nbits w) with
  | ok j => simpa [decodeTableWord, hd, Except.toOption] using h
  | error e => simp [decodeTableWord, hd, Except.toOption] at h

/-- Settles O6: the word is placed as the host's next request, on the host's turn. -/
theorem placedWordRunsNext : Obligations.PlacedWordRunsNext := fun s _ _ i h =>
  stepRunsTheDecodedTransaction _ _ i s.turns s.program rfl rfl (decode_of_decodeTableWord h)

/-- A bus request is a transaction, which completes, or is refused by the mark. -/
theorem busAccess_completes (r : BusReq) (s : State) : ∃ t, busAccess r s = .next t := by
  cases hd : decode r with
  | ok i =>
    rw [busAccess_of_decode_ok hd]
    exact everyTransactionCompletes i s
  | error e => exact ⟨_, busAccess_of_decode_error hd s⟩

/-- The write that ends a `PUTCHAR`, and its return (42_driver.md R102, R103). -/
theorem callTurn_sendByte {c : Byte} {s t : State} (returns : Bool) (ht : exec (.wrData (c.setWidth 32)) s = .next t) :
    callTurn uartHandle (.sendByte c returns) s = .next (if returns = true then returnByte c t else t) := by
  rw [callTurn_of_access (driverTurn_uartHandle (.sendByte c returns) s) ht]
  cases returns <;> rfl

/-- The byte of a `data` word is the byte it was made from. -/
theorem dataBits_dataWord (b : Byte) : dataBits (dataWord b) = b := by
  rw [dataBits_eq_setWidth, dataWord, BitVec.setWidth_setWidth_of_le b (by decide), BitVec.setWidth_eq]

/-- The read of a `GETCHAR`, and the echo it leaves (42_driver.md R104, R105). -/
theorem callTurn_receiveByte {s t : State} (ht : exec .rdData s = .next t) :
    callTurn uartHandle .receiveByte s =
      .next (pushOps [.call (.putChar (carriageReturnToLineFeed (receivedByte s)))] t) := by
  have hbyte : dataBits t.rdata = receivedByte s := by
    cases ht
    exact dataBits_dataWord _
  rw [callTurn_of_access (driverTurn_uartHandle .receiveByte s) ht, hbyte]
  rfl

/-- A driver call makes one transaction, which completes, or is refused by the mark (42_driver.md R99 to R105). -/
theorem callTurn_completes (c : DriverCall) (s : State) : ∃ t, callTurn uartHandle c s = .next t := by
  cases c with
  | init r =>
    by_cases hr : r = 0
    · subst hr
      exact ⟨_, runHostOp_init_zero s⟩
    · exact ⟨_, callTurn_init hr rfl⟩
  | initControl => exact ⟨_, callTurn_initControl rfl⟩
  | putChar b => exact ⟨_, callTurn_putChar b s⟩
  | getChar => exact ⟨_, callTurn_getChar s⟩
  | waitTxReady => exact ⟨_, callTurn_waitTxReady s⟩
  | waitRxReady => exact ⟨_, callTurn_waitRxReady s⟩
  | sendByte b returns => exact ⟨_, callTurn_sendByte returns rfl⟩
  | receiveByte => exact ⟨_, callTurn_receiveByte rfl⟩

theorem runHostOp_completes (op : HostOp) (s : State) : ∃ t, runHostOp op s = .next t := by
  cases op with
  | bus r => exact busAccess_completes r s
  | mem write addr n wdata =>
    rw [runHostOp, memAccess]
    split
    · exact busAccess_completes _ s
    · exact ⟨s, rfl⟩
  | fetch addr =>
    rw [runHostOp, fetchAccess]
    split
    · exact ⟨_, rfl⟩
    · exact ⟨s, rfl⟩
  | call c => exact callTurn_completes c s

theorem hostTurn_completes (s : State) : ∃ t, hostTurn s = .next t := by
  cases hprog : s.program with
  | nil => exact ⟨s, hostTurn_nil hprog⟩
  | cons op rest =>
    rw [hostTurn_cons hprog]
    exact runHostOp_completes op _

/-- Settles O8, by whose turn it is. -/
theorem everyStepAnswersANextState : Obligations.EveryStepAnswersANextState := by
  intro s
  cases hturn : nextTurn s with
  | host =>
    rw [step, hturn]
    exact hostTurn_completes (turnTaken s)
  | transmitter => exact ⟨_, step_of_transmitter hturn⟩
  | receiver b => exact ⟨_, step_of_receiver hturn⟩
  | reset => exact ⟨_, step_of_reset hturn⟩

/-- Settles O10: the offset of an address inside the window does not wrap. -/
theorem memoryAccessInWindowIsBusAccess : Obligations.MemoryAccessInWindowIsBusAccess := by
  intro s write addr wdata n
  split
  next hwindow =>
    refine ⟨addr - Config.uartBase, BitVec.toNat_sub_of_le hwindow.1, ?_⟩
    simp only [runHostOp, memAccess, busOffset, if_pos hwindow]
  next houtside => simp only [runHostOp, memAccess, busOffset, if_neg houtside]

/-- Settles O12, by whether the operation has a transaction; the transaction does not see the host's program. -/
theorem hostTurnIsOneTransaction : Obligations.HostTurnIsOneTransaction := by
  intro s op rest hop
  obtain ⟨u, hu⟩ := hostTurn_completes s
  refine ⟨u, hu, ?_⟩
  rw [hostTurn_cons hop] at hu
  rcases runHostOp_cases hu with ⟨i, v, hi, hv, hvu⟩ | ⟨hnone, rfl | rfl⟩
  · obtain ⟨t, v', ht, hv', hvt⟩ := exec_with_program i s rest
    cases hv.symm.trans hv'
    rw [hi]
    exact ⟨t, ht, hvt.symm.trans hvu⟩
  · rw [hnone]
    exact ⟨SameBlock.refl s, id⟩
  · rw [hnone]
    exact ⟨SameBlock.refl { s with refused := true }, fun _ => rfl⟩

/-- Settles O51: `INIT 0` makes no access. -/
theorem initZeroIsRefused : Obligations.InitZeroIsRefused := fun _ _ _ hturn hop =>
  (step_host_op hturn hop).trans (runHostOp_init_zero _)

/-- Settles O45: each value is written out in `State.reset`. -/
theorem resetLeavesTheStatedValues : Obligations.ResetLeavesTheStatedValues :=
  ⟨rfl, rfl, rfl, rfl, rfl, rfl, rfl, ⟨_, rfl, rfl⟩, rfl, rfl, rfl, rfl, rfl, rfl⟩

end Sys2Proof.Machine

/-! What a transaction does not depend on: its own repetition (20_memory.md R47), the unused bits of its data
(30_encoding.md R59), the other side of `data` (10_state.md R16), the enables (R23). -/

namespace Sys2Proof.Machine

/-- The bookkeeping of a second register write finds nothing left to do (40_register_access.md R81). -/
theorem afterRegisterWrite_afterRegisterWrite (s : State) :
    afterRegisterWrite (afterRegisterWrite s) = afterRegisterWrite s := by
  simp [afterRegisterWrite, afterWrite_afterWrite]

/-- A write of the control bits already stored is its poll bookkeeping alone: it does not clear `TX_EN`. -/
theorem exec_wrControl_of_stored {v : Word} {s : State} (h : s.control = controlBits v) :
    exec (.wrControl v) s = .next (afterRegisterWrite s) := by
  have hkeeps : clearsTxEn v s = false := by
    rw [Bool.eq_false_iff, ne_eq, clearsTxEn_iff, h, controlBits_eq_setWidth]
    simp
  rw [exec, execWrControl, hkeeps, disturbWhen_false, ← h]
  rfl

/-- A write of the divisor already stored is its poll bookkeeping alone: it does not change the divisor. -/
theorem exec_wrBauddiv_of_stored {v : Word} {s : State} (h : s.bauddiv = divisorBits v) :
    exec (.wrBauddiv v) s = .next (afterRegisterWrite s) := by
  have hkeeps : changesDivisor v s = false := by simp [changesDivisor, h]
  rw [exec, execWrBauddiv, hkeeps, disturbWhen_false, ← h]
  rfl

/-- Settles O26: the second write finds its value stored and the poll stale. -/
theorem registerWritesAreIdempotent : Obligations.RegisterWritesAreIdempotent := by
  intro s v i hi
  have hagain (u : State) :=
    congrArg (Host.Outcome.next (φ := Fault) (ρ := Refusal)) (afterRegisterWrite_afterRegisterWrite u)
  simp only [List.mem_cons, List.not_mem_nil, or_false] at hi
  obtain rfl | rfl | rfl | rfl := hi
  · exact ⟨_, rfl, hagain s⟩
  · exact ⟨_, rfl, (exec_wrControl_of_stored rfl).trans (hagain _)⟩
  · exact ⟨_, rfl, hagain s⟩
  · exact ⟨_, rfl, (exec_wrBauddiv_of_stored rfl).trans (hagain _)⟩

/-- Two data that agree in the stored control bits agree in `TX_EN`. -/
theorem clearsTxEn_congr {v w : Word} (h : v.setWidth 7 = w.setWidth 7) (s : State) : clearsTxEn v s = clearsTxEn w s := by
  have hbit : v.getLsbD 0 = w.getLsbD 0 := by simpa using congrArg (·.getLsbD 0) h
  rw [Bool.eq_iff_iff, clearsTxEn_iff, clearsTxEn_iff, hbit]

/-- Two data that agree below `BAUDDIV_WIDTH` store one divisor. -/
theorem divisorBits_congr {v w : Word} (h : v.setWidth Config.bauddivWidth = w.setWidth Config.bauddivWidth) :
    divisorBits v = divisorBits w := by
  rw [divisorBits, divisorBits, lowBits, lowBits, h]

/-- Settles O27: a write sees its data only through the bits it uses. -/
theorem writesIgnoreUnusedDataBits : Obligations.WritesIgnoreUnusedDataBits := by
  refine fun s v w => ⟨fun h => ?_, rfl, fun h => ?_, rfl, fun h => ?_⟩
  · rw [exec, exec, execWrData, execWrData, dataBits_eq_setWidth, dataBits_eq_setWidth, h]
  · rw [exec, exec, execWrControl, execWrControl, clearsTxEn_congr h, controlBits_eq_setWidth, controlBits_eq_setWidth, h]
  · rw [exec, exec, execWrBauddiv, execWrBauddiv, changesDivisor, changesDivisor, divisorBits_congr h]

/-- Settles O28: the byte read and the receive side after are functions of the receive side and the draws. -/
theorem dataReadIgnoresTheTransmitBuffer : Obligations.DataReadIgnoresTheTransmitBuffer := by
  intro s b full ovf t u ht hu
  cases ht
  cases hu
  exact ⟨rfl, rfl, rfl, rfl⟩

/-- Settles O29: of the transactions but `RD control`, only a control write looks at the register, and at its bit 0 alone. -/
theorem enablesGateNoTransaction : Obligations.EnablesGateNoTransaction := by
  intro i s c t u hbit hi ht hu
  have hclears (v : Word) : clearsTxEn v { s with control := c } = clearsTxEn v s := by
    rw [Bool.eq_iff_iff, clearsTxEn_iff, clearsTxEn_iff, hbit]
  cases i
  case rdControl => exact absurd rfl hi
  case wrData v =>
    cases ht
    cases hu
    by_cases hfull : s.txFull = true <;> simp [hfull, overrunByte, SameTransmitSide, SameReceiveSide]
  all_goals
    cases ht
    cases hu
    simp [hclears, receivedByte, stateWord, isrWord, changesDivisor, SameTransmitSide, SameReceiveSide]

end Sys2Proof.Machine

/-! What one step can do to the block: the transaction of the host's turn on the state with the turn taken, or the step of
another agent. -/

namespace Sys2Proof.Machine

theorem SameBlock.settings {s t : State} (h : SameBlock s t) : SameSettings s t := by
  obtain ⟨⟨hset, -⟩, -⟩ := h
  exact hset

theorem SameBlock.receiveBuffer {s t : State} (h : SameBlock s t) : t.rxFull = s.rxFull ∧ t.rxByte = s.rxByte := by
  obtain ⟨⟨-, -, ⟨hfull, hbyte, -⟩, -⟩, -⟩ := h
  exact ⟨hfull, hbyte⟩

theorem SameBlock.wireOut {s t : State} (h : SameBlock s t) : t.wireOut = s.wireOut := by
  obtain ⟨⟨-, ⟨-, -, -, hwire⟩, -⟩, -⟩ := h
  exact hwire

theorem SameBlock.faults {s t : State} (h : SameBlock s t) : t.faults = s.faults := by
  obtain ⟨⟨-, -, -, -, -, hfaults, -⟩, -⟩ := h
  exact hfaults

theorem SameBlock.refused {s t : State} (h : SameBlock s t) : t.refused = s.refused := by
  obtain ⟨⟨-, -, -, -, -, -, hrefused⟩, -⟩ := h
  exact hrefused

theorem SameBlock.draws {s t : State} (h : SameBlock s t) : t.draws = s.draws := by
  obtain ⟨-, -, hdraws⟩ := h
  exact hdraws

/-- What a step can do to the block, one case for each kind of turn, the host's by whether it issues a transaction. -/
theorem step_block_cases {s t : State} (h : step s = .next t) :
    (nextTurn s = .host ∧ ∃ i u, stepTransaction s = some i ∧ exec i (turnTaken s) = .next u ∧ SameBlock u t) ∨
      (nextTurn s = .host ∧ stepTransaction s = none ∧
        ∃ mark, (s.refused = true → mark = true) ∧ SameBlock { turnTaken s with refused := mark } t) ∨
      (nextTurn s = .transmitter ∧ t = txStep (turnTaken s)) ∨
      (∃ b, nextTurn s = .receiver b ∧ t = rxStep b (turnTaken s)) ∨
      (nextTurn s = .reset ∧ t = platformReset (turnTaken s)) := by
  rcases step_cases h with ⟨hturn, ht⟩ | hother
  · rcases hostTurn_turnTaken_cases hturn ht with htrans | ⟨hnone, hsame | hsame⟩
    · exact .inl ⟨hturn, htrans⟩
    · exact .inr (.inl ⟨hturn, hnone, _, (turnTaken_refused s).trans, hsame⟩)
    · exact .inr (.inl ⟨hturn, hnone, true, fun _ => rfl, hsame⟩)
  · exact .inr (.inr hother)

end Sys2Proof.Machine

/-! The engines' frames (41_line_engines.md R85, R97) and the transmit queue (R90). -/

namespace Sys2Proof.Machine

/-- `TX_STEP` where it is not enabled (41_line_engines.md R85). -/
theorem txStep_of_disabled {s : State} (h : s.control.getLsbD 0 = false ∨ s.txFull = false) : txStep s = s :=
  if_neg (by rcases h with hdis | hempty <;> simp [txStepEnabled, txEnabled, txEnBit, -BitVec.getLsbD_eq_getElem, *])

/-- The transmitter's turn is either enabled, or disabled for one of two reasons. -/
theorem txStep_enabled_or_disabled (s : State) :
    (s.control.getLsbD 0 = true ∧ s.txFull = true) ∨ (s.control.getLsbD 0 = false ∨ s.txFull = false) := by
  cases s.control.getLsbD 0 <;> cases s.txFull <;> simp

/-- Settles O31: all that happens is that the turn is taken. -/
theorem disabledTransmitterChangesNothing : Obligations.DisabledTransmitterChangesNothing := by
  intro s hturn hdis
  have hidle : txStep (turnTaken s) = turnTaken s := txStep_of_disabled (by simpa using hdis)
  refine ⟨turnTaken s, ?_, sameRecord_turnTaken_right s, turnTaken_rdata s, turnTaken_program s, turnTaken_returns s⟩
  rw [step_of_transmitter hturn, hidle]

/-- Settles O34: the two engines' frames. -/
theorem engineStepsKeepTheHostsRegisters : Obligations.EngineStepsKeepTheHostsRegisters := by
  rintro s (hturn | ⟨b, hturn⟩)
  · obtain ⟨-, -, hset, hrx, hpoll, hfaults, hrefused, hrdata, hprog, hreturns⟩ := txStep_turnTaken_frame s
    exact ⟨_, step_of_transmitter hturn, hset, hpoll, hfaults, hrefused, hrdata, hprog, hreturns, fun _ => hrx,
      fun hne => absurd hturn hne⟩
  · obtain ⟨hset, htx, hpoll, hfaults, hrefused, hrdata, hprog, hreturns⟩ := rxStep_turnTaken_frame b s
    exact ⟨_, step_of_receiver hturn, hset, hpoll, hfaults, hrefused, hrdata, hprog, hreturns,
      fun htx => by simp [hturn] at htx, fun _ => htx⟩

/-- The transmit queue is a function of the transmit side. -/
theorem sentOrBuffered_congr {s t : State} (h : SameTransmitSide s t) : sentOrBuffered t = sentOrBuffered s := by
  obtain ⟨hfull, hbyte, -, hwire⟩ := h
  rw [sentOrBuffered, sentOrBuffered, hfull, hbyte, hwire]

/-- An accepted byte joins the queue (40_register_access.md R72). -/
theorem sentOrBuffered_acceptByte {s : State} (c : Byte) (hempty : s.txFull = false) :
    sentOrBuffered (afterDataAccess (acceptByte c s)) = sentOrBuffered s ++ [c] := by
  simp [sentOrBuffered, hempty]

/-- An enabled `TX_STEP` moves the head of the queue to the wire, under a divisor that is not valid as a draw
(41_line_engines.md R86, R92). -/
theorem sentOrBuffered_txStep {s : State} (hen : s.control.getLsbD 0 = true) (hfull : s.txFull = true) :
    sentOrBuffered (txStep s) = s.wireOut ++ [lineByte s.txByte s] := by
  rw [txStep_of_enabled hen hfull]
  simp [sentOrBuffered]

/-- Settles O35: an accepted byte joins the queue, the transmitter moves its head, the receiver leaves it alone. -/
theorem acceptedBytesAreSentInOrder : Obligations.AcceptedBytesAreSentInOrder := by
  refine ⟨fun s v hempty => ?_, fun s hturn => ⟨_, step_of_transmitter hturn, ?_⟩,
    fun s b hturn => ⟨_, step_of_receiver hturn, ?_⟩⟩
  · rcases exec_wrData_cases v s with ⟨-, hexec⟩ | ⟨hfull, -⟩
    · exact ⟨_, hexec, by rw [sentOrBuffered_acceptByte _ hempty, dataBits_eq_setWidth]⟩
    · simp [hempty] at hfull
  · rcases txStep_enabled_or_disabled (turnTaken s) with ⟨hen, hfull⟩ | hdis
    · rw [sentOrBuffered_txStep hen hfull, lineByte_turnTaken]
      cases hvalid : baudValid s.bauddiv with
      | true =>
        rw [turnTaken_txFull] at hfull
        exact .inl (by simp [sentOrBuffered, hfull])
      | false => exact .inr (by simp)
    · rw [txStep_of_disabled hdis]
      exact .inl (sentOrBuffered_congr (by simp [SameTransmitSide]))
  · obtain ⟨-, htx, -⟩ := rxStep_turnTaken_frame b s
    exact sentOrBuffered_congr htx

end Sys2Proof.Machine

/-! Over every step: the `isr` bit set (60_exceptions.md R119), the faults and the refusal mark (00_scope.md R9,
70_reset_and_hazards.md R134), the wire (41_line_engines.md R94, R97), the draws (00_scope.md R9). -/

namespace Sys2Proof.Machine

/-- The one `isr` bit that the turn from `s` can set (60_exceptions.md R114); a reset sets none. -/
def turnIsrBit (s : State) : Nat :=
  match nextTurn s with
  | .transmitter => 0
  | .receiver _ => if s.rxFull = true then 3 else 1
  | .host => 2
  | .reset => 4

theorem eq_turnIsrBit_of_setsIsrBit {s : State} {k : Nat} (h : SetsIsrBit s k) : k = turnIsrBit s := by
  obtain ⟨-, ⟨rfl, hturn, -⟩ | ⟨rfl, ⟨b, hturn⟩, -, hempty⟩ | ⟨rfl, ⟨v, hv⟩, -⟩ | ⟨rfl, ⟨b, hturn⟩, -, hfull⟩⟩ := h
  · simp [turnIsrBit, hturn]
  · simp [turnIsrBit, hturn, hempty]
  · simp [turnIsrBit, nextTurn_of_stepTransaction hv]
  · simp [turnIsrBit, hturn, hfull]

/-- Settles O38: a step clears all four bits, or sets none but its turn's. -/
theorem atMostOneIsrBitSetPerStep : Obligations.AtMostOneIsrBitSetPerStep := by
  intro s t h
  refine ⟨turnIsrBit s, fun j hj hset => ?_⟩
  by_cases hclears : ClearsIsr s
  · simp [isr_of_clearsIsr h hclears] at hset
  · refine ((step_isr_getLsbD h hclears j).mp hset).resolve_right fun hsets => ?_
    exact hj (eq_turnIsrBit_of_setsIsrBit hsets)

/-- The step from `s` is a data access that finds the poll stale (70_reset_and_hazards.md R134). -/
def FindsPollStale (s : State) : Prop :=
  s.poll = .stale ∧ (stepTransaction s = some .rdData ∨ ∃ v, stepTransaction s = some (.wrData v))

/-- Of the ten transactions, a data access that finds the poll stale adds the hazard, and every other keeps the faults. -/
theorem exec_faults {i : Instr} {s u : State} (h : exec i s = .next u) :
    u.faults =
      s.faults ++ if s.poll = .stale ∧ (i = .rdData ∨ ∃ v, i = .wrData v) then [.hazardStaleStatus] else [] := by
  obtain ⟨t, ht, -, hfaults⟩ := pollBookkeepingOfEveryTransaction i s
  cases h.symm.trans ht
  rw [hfaults]
  cases i <;> by_cases hstale : s.poll = .stale <;> simp [hstale]

/-- A transaction leaves the refusal mark and the host's side alone. -/
theorem exec_refused_and_hostSide {i : Instr} {s u : State} (h : exec i s = .next u) :
    u.refused = s.refused ∧ SameHostSide s u := by
  cases i
  case wrData v =>
    rcases exec_wrData_cases v s with ⟨-, hexec⟩ | ⟨-, hexec⟩
    all_goals
      cases hexec.symm.trans h
      exact ⟨rfl, rfl, rfl, rfl⟩
  all_goals
    cases h
    exact ⟨rfl, rfl, rfl, rfl⟩

/-- A step of an agent adds the hazard exactly when it is a data access that finds the poll stale. -/
theorem step_faults {s t : State} (h : step s = .next t) (hreset : nextTurn s ≠ .reset) :
    (FindsPollStale s ∧ t.faults = s.faults ++ [.hazardStaleStatus]) ∨ (¬ FindsPollStale s ∧ t.faults = s.faults) := by
  rcases step_block_cases h with
    ⟨-, i, u, hi, hu, hut⟩ | ⟨-, hnone, mark, -, hst⟩ | ⟨hturn, rfl⟩ | ⟨b, hturn, rfl⟩ | ⟨hturn, -⟩
  · rw [hut.faults, exec_faults hu]
    simp only [turnTaken_poll, turnTaken_faults, FindsPollStale, hi, Option.some.injEq]
    split <;> simp_all
  · exact .inr ⟨by simp [FindsPollStale, hnone], by simp [hst.faults]⟩
  · obtain ⟨-, -, -, -, -, hfaults, -⟩ := txStep_turnTaken_frame s
    exact .inr ⟨by simp [FindsPollStale, stepTransaction_of_ne_host, hturn], hfaults⟩
  · obtain ⟨-, -, -, hfaults, -⟩ := rxStep_turnTaken_frame b s
    exact .inr ⟨by simp [FindsPollStale, stepTransaction_of_ne_host, hturn], hfaults⟩
  · exact absurd hturn hreset

/-- No step of an agent clears the refusal mark (00_scope.md R9). -/
theorem step_refused {s t : State} (h : step s = .next t) (hreset : nextTurn s ≠ .reset)
    (hrefused : s.refused = true) : t.refused = true := by
  rcases step_block_cases h with
    ⟨-, i, u, -, hu, hut⟩ | ⟨-, -, mark, hmark, hst⟩ | ⟨-, rfl⟩ | ⟨b, -, rfl⟩ | ⟨hturn, -⟩
  · obtain ⟨hkept, -⟩ := exec_refused_and_hostSide hu
    rw [hut.refused, hkept, turnTaken_refused, hrefused]
  · rw [hst.refused, hmark hrefused]
  · obtain ⟨-, -, -, -, -, -, hkept, -⟩ := txStep_turnTaken_frame s
    rw [hkept, hrefused]
  · obtain ⟨-, -, -, -, hkept, -⟩ := rxStep_turnTaken_frame b s
    rw [hkept, hrefused]
  · exact absurd hturn hreset

/-- Settles O41: faults are kept or added to, and the mark is kept. -/
theorem faultsAndRefusalAreNeverCleared : Obligations.FaultsAndRefusalAreNeverCleared := by
  intro s t h hreset
  refine ⟨?_, step_refused h hreset⟩
  rcases step_faults h hreset with ⟨-, hfaults⟩ | ⟨-, hfaults⟩
  · exact hfaults ▸ List.prefix_append _ _
  · exact hfaults ▸ List.prefix_rfl

/-- Settles O42, by whether the step is a data access that finds the poll stale. -/
theorem hazardIsRecordedExactlyOnAStalePoll : Obligations.HazardIsRecordedExactlyOnAStalePoll := by
  intro s t h hreset
  rcases step_faults h hreset with ⟨hfinds, hfaults⟩ | ⟨hfinds, hfaults⟩
  · exact ⟨iff_of_true hfaults hfinds, .inr hfaults⟩
  · exact ⟨iff_of_false (by simp [hfaults]) hfinds, .inl hfaults⟩

/-- A wire that is kept or has its last byte replaced, as two cases. -/
theorem KeptOrLastReplaced.cases {keeps : Bool} {b : Byte} {before after : List Byte}
    (h : KeptOrLastReplaced keeps b before after) :
    after = before ∨ ∃ earlier last, before = earlier ++ [last] ∧ after = earlier ++ [b] := by
  obtain ⟨hkept, hreplaced⟩ := h
  cases keeps with
  | true => exact .inl (hkept rfl)
  | false => exact (hreplaced rfl).imp_left fun ⟨hbefore, hafter⟩ => hafter.trans hbefore.symm

/-- Settles O43: only `TX_STEP` adds to the wire, and only a reconfiguring write disturbs its last byte. -/
theorem wireOnlyGrowsOrLosesItsLastByte : Obligations.WireOnlyGrowsOrLosesItsLastByte := by
  intro s t h hreset
  rcases step_block_cases h with
    ⟨-, i, u, hi, hu, hut⟩ | ⟨-, -, mark, -, hst⟩ | ⟨hturn, rfl⟩ | ⟨b, -, rfl⟩ | ⟨hturn, -⟩
  · obtain ⟨u', hu', hwire, -⟩ := exec_wireOut_and_buffers i (turnTaken s)
    cases hu.symm.trans hu'
    rw [hut.wireOut, hwire]
    cases hdisturbs : disturbsFrame i (turnTaken s) with
    | false => exact .inl (by simp)
    | true =>
      obtain ⟨v, hv⟩ := reconfigures_of_disturbsFrame hdisturbs
      have hkept := disturbWhen_true_keptOrLastReplaced (turnTaken s)
      rw [turnTaken_wireOut] at hkept
      rcases hkept.cases with hsame | ⟨earlier, last, hbefore, hafter⟩
      · exact .inl hsame
      · exact .inr (.inr ⟨⟨v, by simpa [hi] using hv⟩, earlier, last, _, hbefore, hafter⟩)
  · exact .inl (by simp [hst.wireOut])
  · rcases txStep_enabled_or_disabled (turnTaken s) with ⟨hen, hfull⟩ | hdis
    · rw [txStep_of_enabled hen hfull]
      exact .inr (.inl ⟨hturn, _, congrArg (· ++ _) (turnTaken_wireOut s)⟩)
    · exact .inl (by simp [txStep_of_disabled hdis])
  · obtain ⟨-, ⟨-, -, -, hwire⟩, -⟩ := rxStep_turnTaken_frame b s
    exact .inl hwire
  · exact absurd hturn hreset

/-- Does a transaction take a draw, or make a free choice? -/
def takesDraw : Instr → State → Bool
  | .rdBauddiv, _ => true
  | .rdData, s => s.rxByte.isNone
  | .wrData _, s => s.txFull
  | .wrControl v, s => clearsTxEn v s
  | .wrBauddiv v, s => changesDivisor v s
  | .rdState, _ | .wrState _, _ | .rdControl, _ | .rdIsr, _ | .wrIsr _, _ => false

/-- A transaction counts its draw, and never another. -/
theorem exec_draws {i : Instr} {s u : State} (h : exec i s = .next u) :
    u.draws = bif takesDraw i s then s.draws + 1 else s.draws := by
  cases i
  case wrData v =>
    rcases exec_wrData_cases v s with ⟨hempty, hexec⟩ | ⟨hfull, hexec⟩
    · cases hexec.symm.trans h
      simp [takesDraw, hempty]
    · cases hexec.symm.trans h
      simp [takesDraw, hfull, overrunByte]
  all_goals
    cases h
    rfl

/-- The transactions that take a draw, in the terms of the registers and the data. -/
theorem takesDraw_iff (i : Instr) (s : State) :
    takesDraw i s = true ↔
      i = .rdBauddiv ∨ (i = .rdData ∧ s.rxByte = none) ∨ ((∃ v, i = .wrData v) ∧ s.txFull = true) ∨
        (∃ v, i = .wrControl v ∧ s.control.getLsbD 0 = true ∧ v.getLsbD 0 = false) ∨
        ∃ v, i = .wrBauddiv v ∧ lowBits Config.bauddivWidth v ≠ s.bauddiv := by
  cases i <;> simp [takesDraw, clearsTxEn_iff, changesDivisor_iff, divisorBits, -BitVec.getLsbD_eq_getElem]

/-- The transmitter's turn draws where it is enabled (41_line_engines.md R92). -/
theorem txStep_draws (s : State) :
    (txStep s).draws = if s.control.getLsbD 0 = true ∧ s.txFull = true then s.draws + 1 else s.draws := by
  rcases txStep_enabled_or_disabled s with ⟨hen, hfull⟩ | hdis
  · rw [txStep_of_enabled hen hfull, if_pos ⟨hen, hfull⟩]
    rfl
  · rw [txStep_of_disabled hdis, if_neg (by rcases hdis with hdis | hempty <;> simp [-BitVec.getLsbD_eq_getElem, *])]

/-- The receiver's turn draws where it is enabled (41_line_engines.md R92). -/
theorem rxStep_draws (b : Byte) (s : State) :
    (rxStep b s).draws = if s.control.getLsbD 1 = true then s.draws + 1 else s.draws := by
  cases hen : s.control.getLsbD 1 with
  | false => rw [rxStep_of_disabled b hen]; rfl
  | true => cases hfull : s.rxFull with
    | false => rw [rxStep_of_empty b hen hfull]; rfl
    | true => rw [rxStep_of_full b hen hfull]; rfl

/-- A counter that counts under a condition never goes back, and goes on where the condition holds. -/
theorem le_and_lt_of_countsIf (p : Prop) [Decidable p] (n : Nat) :
    n ≤ (if p then n + 1 else n) ∧ (p → n < if p then n + 1 else n) := by
  split <;> simp [*]

/-- Settles O44: a free turn is drawn before its turn runs, and each kind of turn counts its draw. -/
theorem drawCounterNeverGoesBack : Obligations.DrawCounterNeverGoesBack := by
  intro s t h
  have hfree : s.turns = [] → s.draws < (turnTaken s).draws := fun hnil => by simp [hnil]
  have htaken : s.draws ≤ (turnTaken s).draws := by
    rw [turnTaken_draws]
    split <;> simp
  rcases step_block_cases h with
    ⟨hturn, i, u, hi, hu, hut⟩ | ⟨hturn, hnone, mark, -, hst⟩ | ⟨hturn, rfl⟩ | ⟨b, hturn, rfl⟩ | ⟨hturn, rfl⟩
  · rw [hut.draws, exec_draws hu, cond_eq_ite]
    obtain ⟨hle, hlt⟩ := le_and_lt_of_countsIf (takesDraw i (turnTaken s) = true) (turnTaken s).draws
    refine ⟨htaken, hle, hfree, fun hdraws => hlt ((takesDraw_iff _ _).mpr ?_)⟩
    simpa [hturn, hi, -BitVec.getLsbD_eq_getElem] using hdraws
  · have hdraws : t.draws = (turnTaken s).draws := hst.draws
    exact ⟨htaken, hdraws.ge, hfree, by simp [hturn, hnone]⟩
  · rw [txStep_draws]
    obtain ⟨hle, hlt⟩ := le_and_lt_of_countsIf
      ((turnTaken s).control.getLsbD 0 = true ∧ (turnTaken s).txFull = true) (turnTaken s).draws
    refine ⟨htaken, hle, hfree, fun hdraws => hlt ?_⟩
    simpa [hturn, stepTransaction_of_ne_host, -BitVec.getLsbD_eq_getElem] using hdraws
  · rw [rxStep_draws]
    obtain ⟨hle, hlt⟩ := le_and_lt_of_countsIf ((turnTaken s).control.getLsbD 1 = true) (turnTaken s).draws
    refine ⟨htaken, hle, hfree, fun hdraws => hlt ?_⟩
    simpa [hturn, stepTransaction_of_ne_host, -BitVec.getLsbD_eq_getElem] using hdraws
  · exact ⟨htaken, Nat.le_succ _, hfree, fun _ => Nat.lt_succ_self _⟩

end Sys2Proof.Machine

/-! The block's invariant (10_state.md R26, R29). -/

namespace Sys2Proof.Machine

/-- Settles O47: the receive buffer is empty and the divisor is 0. -/
theorem resetMeetsTheBlockInvariant : Obligations.ResetMeetsTheBlockInvariant :=
  ⟨fun hfull => absurd hfull (by decide), fun _ _ => BitVec.getLsbD_zero⟩

/-- The invariant is about three fields of the block. -/
theorem BlockInvariant.congr {s t : State} (h : BlockInvariant s) (hfull : t.rxFull = s.rxFull)
    (hbyte : t.rxByte = s.rxByte) (hdivisor : t.bauddiv = s.bauddiv) : BlockInvariant t := by
  obtain ⟨hsound, hfits⟩ := h
  refine ⟨fun ht => hbyte ▸ hsound (hfull ▸ ht), ?_⟩
  rw [DivisorFits, hdivisor]
  exact hfits

theorem BlockInvariant.of_sameBlock {s t : State} (h : BlockInvariant s) (hst : SameBlock s t) : BlockInvariant t := by
  obtain ⟨-, hdivisor⟩ := hst.settings
  obtain ⟨hfull, hbyte⟩ := hst.receiveBuffer
  exact h.congr hfull hbyte hdivisor

/-- A transaction keeps `control` and the divisor, but for the write of each (40_register_access.md R76, R80). -/
theorem exec_settings {i : Instr} {s u : State} (h : exec i s = .next u) :
    (u.control = s.control ∨ ∃ v, i = .wrControl v ∧ u.control = controlBits v) ∧
      (u.bauddiv = s.bauddiv ∨ ∃ v, i = .wrBauddiv v ∧ u.bauddiv = divisorBits v) := by
  cases i
  case wrControl v =>
    cases h
    exact ⟨.inr ⟨v, rfl, rfl⟩, .inl rfl⟩
  case wrBauddiv v =>
    cases h
    exact ⟨.inl rfl, .inr ⟨v, rfl, rfl⟩⟩
  case wrData v =>
    rcases exec_wrData_cases v s with ⟨-, hexec⟩ | ⟨-, hexec⟩
    all_goals
      cases hexec.symm.trans h
      exact ⟨.inl rfl, .inl rfl⟩
  all_goals
    cases h
    exact ⟨.inl rfl, .inl rfl⟩

/-- A transaction fills no receive buffer, and stores only a divisor that fits. -/
theorem exec_keeps_blockInvariant {i : Instr} {s u : State} (hinv : BlockInvariant s) (h : exec i s = .next u) :
    BlockInvariant u := by
  obtain ⟨hsound, hfits⟩ := hinv
  obtain ⟨u', hu', -, hbyte, hfull, -⟩ := exec_wireOut_and_buffers i s
  cases h.symm.trans hu'
  refine ⟨fun hu => hbyte ▸ hsound (hfull hu), ?_⟩
  obtain ⟨-, hkept | ⟨v, -, hstored⟩⟩ := exec_settings h
  · rw [DivisorFits, hkept]
    exact hfits
  · rw [DivisorFits, hstored]
    exact divisorBits_getLsbD_of_le v

/-- The receiver fills its buffer only with a byte. -/
theorem rxStep_receiveSound (b : Byte) {s : State} (h : ReceiveSound s) : ReceiveSound (rxStep b s) := by
  cases hen : s.control.getLsbD 1 with
  | false =>
    rw [rxStep_of_disabled b hen]
    exact h
  | true => cases hfull : s.rxFull with
    | false =>
      rw [rxStep_of_empty b hen hfull]
      exact fun _ => Option.some_ne_none _
    | true =>
      intro _
      rw [rxStep_of_full b hen hfull, overrunReceived_rxByte]
      split
      · exact h hfull
      · exact Option.some_ne_none _

/-- Settles O48, by whose turn it is. -/
theorem everyStepKeepsTheBlockInvariant : Obligations.EveryStepKeepsTheBlockInvariant := by
  intro s t hinv h
  have htaken : BlockInvariant (turnTaken s) := hinv.congr (by simp) (by simp) (by simp)
  rcases step_block_cases h with
    ⟨-, i, u, -, hu, hut⟩ | ⟨-, -, mark, -, hst⟩ | ⟨-, rfl⟩ | ⟨b, -, rfl⟩ | ⟨-, rfl⟩
  · exact (exec_keeps_blockInvariant htaken hu).of_sameBlock hut
  · exact BlockInvariant.of_sameBlock (s := { turnTaken s with refused := mark }) htaken hst
  · obtain ⟨⟨-, hdivisor⟩, ⟨hfull, hbyte, -⟩, -⟩ := txStep_frame (turnTaken s)
    exact htaken.congr hfull hbyte hdivisor
  · obtain ⟨hsound, hfits⟩ := htaken
    obtain ⟨⟨-, hdivisor⟩, -⟩ := rxStep_frame b (turnTaken s)
    refine ⟨rxStep_receiveSound b hsound, ?_⟩
    rw [DivisorFits, hdivisor]
    exact hfits
  · exact resetMeetsTheBlockInvariant.congr rfl rfl rfl

end Sys2Proof.Machine

/-! A host that runs only the driver: no hazard (42_driver.md R111), no interrupt (60_exceptions.md R122). -/

namespace Sys2Proof.Machine

/-- A driver program is one with the poll counting. -/
theorem driverOps_of_polled {polled : Bool} {ops : List HostOp} (h : driverOps polled ops = true) :
    driverOps true ops = true := by
  cases polled with
  | false => exact driverOps_of_unpolled h true
  | true => exact h

/-- What a `PUTCHAR` leaves after its wait is a driver program with the poll counting (42_driver.md R102). -/
theorem driverOps_afterFirstWait (c : Byte) {rest : List HostOp} (h : driverOps false rest = true) :
    driverOps true ((afterFirstWait c).map .call ++ rest) = true := by
  unfold afterFirstWait
  split <;> simpa [driverOps] using h

/-- What a turn of a driver call leaves, before a driver program, is one where the poll stands (42_driver.md R111). -/
theorem callTurn_driverOps {polled : Bool} {c : DriverCall} {s u : State}
    (hops : driverOps polled (.call c :: s.program) = true) (h : callTurn uartHandle c s = .next u) :
    driverOps (u.poll != .stale) u.program = true := by
  cases c with
  | init r =>
    by_cases hr : r = 0
    · subst hr
      cases h
      exact driverOps_of_unpolled hops _
    · cases (callTurn_init hr rfl).symm.trans h
      exact hops
  | initControl =>
    cases (callTurn_initControl rfl).symm.trans h
    exact driverOps_of_unpolled hops _
  | putChar b =>
    cases (callTurn_putChar b s).symm.trans h
    have hleft := driverOps_afterFirstWait b hops
    change driverOps true (List.map .call _ ++ s.program) = true
    split <;> exact hleft
  | getChar =>
    cases (callTurn_getChar s).symm.trans h
    change driverOps true (List.map .call _ ++ s.program) = true
    split <;> exact hops
  | waitTxReady =>
    cases (callTurn_waitTxReady s).symm.trans h
    change driverOps true (_ ++ s.program) = true
    split <;> exact hops
  | waitRxReady =>
    cases (callTurn_waitRxReady s).symm.trans h
    change driverOps true (_ ++ s.program) = true
    split <;> exact hops
  | sendByte b returns =>
    obtain ⟨-, hrest⟩ := (Bool.and_eq_true _ _).mp hops
    obtain ⟨t, ht⟩ := everyTransactionCompletes (.wrData (b.setWidth 32)) s
    obtain ⟨-, hprog, -⟩ := exec_refused_and_hostSide ht
    cases (callTurn_sendByte returns ht).symm.trans h
    cases returns <;> exact driverOps_of_unpolled (hprog ▸ hrest) _
  | receiveByte =>
    obtain ⟨-, hrest⟩ := (Bool.and_eq_true _ _).mp hops
    cases (callTurn_receiveByte rfl).symm.trans h
    exact hrest

/-- A driver program that has not ended goes on with a driver call. -/
theorem eq_call_of_driverOps {polled : Bool} {op : HostOp} {rest : List HostOp}
    (h : driverOps polled (op :: rest) = true) : ∃ c, op = .call c := by
  cases op with
  | call c => exact ⟨c, rfl⟩
  | bus | mem | fetch => simp [driverOps] at h

/-- Over a step of any agent, a driver program and the poll are kept, or it is a driver program where the poll then stands. -/
theorem step_driverOps {polled : Bool} {s t : State} (hops : driverOps polled s.program = true) (h : step s = .next t) :
    (t.poll = s.poll ∧ t.program = s.program) ∨ driverOps (t.poll != .stale) t.program = true := by
  rcases step_cases h with ⟨-, ht⟩ | ⟨-, rfl⟩ | ⟨b, -, rfl⟩ | ⟨-, rfl⟩
  · cases hprog : s.program with
    | nil =>
      rw [hostTurn_nil (by simpa using hprog)] at ht
      cases ht
      exact .inl ⟨turnTaken_poll s, (turnTaken_program s).trans hprog⟩
    | cons op rest =>
      rw [hprog] at hops
      obtain ⟨c, rfl⟩ := eq_call_of_driverOps hops
      rw [hostTurn_cons ((turnTaken_program s).trans hprog)] at ht
      exact .inr (callTurn_driverOps (s := { turnTaken s with program := rest }) hops ht)
  · obtain ⟨-, -, -, -, hpoll, -, -, -, hprog, -⟩ := txStep_turnTaken_frame s
    exact .inl ⟨hpoll, hprog⟩
  · obtain ⟨-, -, hpoll, -, -, -, hprog, -⟩ := rxStep_turnTaken_frame b s
    exact .inl ⟨hpoll, hprog⟩
  · refine .inr (driverOps_of_polled (polled := polled) ?_)
    rw [show (platformReset (turnTaken s)).program = s.program from turnTaken_program s]
    exact hops

/-- The transaction of a step under a driver program is its next call's. -/
theorem stepTransaction_of_driverOps {polled : Bool} {s : State} {i : Instr} (hops : driverOps polled s.program = true)
    (hi : stepTransaction s = some i) : ∃ c rest, s.program = .call c :: rest ∧ callTransaction c = some i := by
  rw [stepTransaction_of_host (nextTurn_of_stepTransaction hi)] at hi
  cases hprog : s.program with
  | nil => simp [hprog] at hi
  | cons op rest =>
    rw [hprog] at hops hi
    obtain ⟨c, rfl⟩ := eq_call_of_driverOps hops
    exact ⟨c, rest, rfl, hi⟩

/-- The driver's data accesses are those of `sendByte` and `receiveByte` (42_driver.md R110). -/
theorem polled_of_dataCall {polled : Bool} {c : DriverCall} {rest : List HostOp}
    (hops : driverOps polled (.call c :: rest) = true)
    (hdata : callTransaction c = some .rdData ∨ ∃ v, callTransaction c = some (.wrData v)) : polled = true := by
  cases c
  case sendByte | receiveByte => exact ((Bool.and_eq_true _ _).mp hops).1
  case init r => by_cases hr : r = 0 <;> simp [callTransaction, hr] at hdata
  all_goals simp [callTransaction] at hdata

/-- A driver program makes no data access on a stale poll (42_driver.md R111). -/
theorem not_findsPollStale_of_driverOps {s : State} (hops : driverOps (s.poll != .stale) s.program = true) :
    ¬ FindsPollStale s := by
  rintro ⟨hstale, hdata⟩
  have hcall : ∃ c rest, s.program = .call c :: rest ∧
      (callTransaction c = some .rdData ∨ ∃ v, callTransaction c = some (.wrData v)) := by
    rcases hdata with hread | ⟨v, hwrite⟩
    · obtain ⟨c, rest, hprog, hc⟩ := stepTransaction_of_driverOps hops hread
      exact ⟨c, rest, hprog, .inl hc⟩
    · obtain ⟨c, rest, hprog, hc⟩ := stepTransaction_of_driverOps hops hwrite
      exact ⟨c, rest, hprog, .inr ⟨v, hc⟩⟩
  obtain ⟨c, rest, hprog, hc⟩ := hcall
  rw [hprog, hstale] at hops
  exact absurd (polled_of_dataCall hops hc) (by decide)

/-- Settles O56: the program's next data access finds the poll counting, and each turn leaves such a program. -/
theorem everyStepKeepsTheDriverHazardFree : Obligations.EveryStepKeepsTheDriverHazardFree := by
  rintro s t ⟨hfaults, hops⟩ h
  refine ⟨?_, ?_⟩
  · by_cases hreset : nextTurn s = .reset
    · cases (step_of_reset hreset).symm.trans h
      rfl
    · rcases step_faults h hreset with ⟨hfinds, -⟩ | ⟨-, hkept⟩
      · exact absurd hfinds (not_findsPollStale_of_driverOps hops)
      · exact hkept.trans hfaults
  · rcases step_driverOps hops h with ⟨hpoll, hprog⟩ | hleft
    · rw [hpoll, hprog]
      exact hops
    · exact hleft

/-- A step keeps `control`, writes it, or resets it to 0. -/
theorem step_control {s t : State} (h : step s = .next t) :
    t.control = s.control ∨ (∃ v, stepTransaction s = some (.wrControl v) ∧ t.control = controlBits v) ∨
      t.control = 0#7 := by
  rcases step_block_cases h with
    ⟨-, i, u, hi, hu, hut⟩ | ⟨-, -, mark, -, hst⟩ | ⟨-, rfl⟩ | ⟨b, -, rfl⟩ | ⟨-, rfl⟩
  · obtain ⟨hcontrol, -⟩ := hut.settings
    rw [hcontrol]
    obtain ⟨hkept | ⟨v, rfl, hstored⟩, -⟩ := exec_settings hu
    · exact .inl (by simpa using hkept)
    · exact .inr (.inl ⟨v, hi, hstored⟩)
  · obtain ⟨hcontrol, -⟩ := hst.settings
    exact .inl (by simpa using hcontrol)
  · obtain ⟨-, -, ⟨hcontrol, -⟩, -⟩ := txStep_turnTaken_frame s
    exact .inl hcontrol
  · obtain ⟨⟨hcontrol, -⟩, -⟩ := rxStep_turnTaken_frame b s
    exact .inl hcontrol
  · exact .inr (.inr rfl)

/-- The one control write of the driver sets `TX_EN` and `RX_EN` alone (42_driver.md R100). -/
theorem eq_of_callTransaction_wrControl {c : DriverCall} {v : Word} (h : callTransaction c = some (.wrControl v)) :
    v = 0x3#32 := by
  cases c
  case initControl =>
    cases h
    rfl
  case init r => by_cases hr : r = 0 <;> simp [callTransaction, hr] at h
  all_goals simp [callTransaction] at h

/-- With the four enables and `isr` 0, no step sets an `isr` bit (60_exceptions.md R114). -/
theorem step_isr_of_disabled {s t : State} (h : step s = .next t) (hisr : s.isr = 0#4)
    (hdis : ∀ k, 2 ≤ k → k ≤ 5 → s.control.getLsbD k = false) : t.isr = 0#4 := by
  by_cases hclears : ClearsIsr s
  · exact isr_of_clearsIsr h hclears
  · apply BitVec.eq_of_getLsbD_eq
    intro k hk
    rw [BitVec.getLsbD_zero, Bool.eq_false_iff, ne_eq, step_isr_getLsbD h hclears, hisr, BitVec.getLsbD_zero]
    rintro (hpending | ⟨hen, -⟩)
    · exact absurd hpending (by decide)
    · rw [hdis _ (by omega) (by omega)] at hen
      exact absurd hen (by decide)

/-- Settles O57: the driver writes only 0x3 to `control`, so no event has its enable. -/
theorem everyStepKeepsTheDriverInterruptsOff : Obligations.EveryStepKeepsTheDriverInterruptsOff := by
  rintro s t ⟨hops, hisr, hdis⟩ h
  refine ⟨?_, step_isr_of_disabled h hisr hdis, fun k hk2 hk5 => ?_⟩
  · rcases step_driverOps hops h with ⟨-, hprog⟩ | hleft
    · rw [hprog]
      exact hops
    · exact driverOps_of_polled hleft
  · rcases step_control h with hkept | ⟨v, hv, hstored⟩ | hreset
    · rw [hkept]
      exact hdis k hk2 hk5
    · obtain ⟨c, -, -, hc⟩ := stepTransaction_of_driverOps hops hv
      have hbits : controlBits 0x3#32 = 0b0000011#7 := by decide
      rw [hstored, eq_of_callTransaction_wrControl hc, hbits]
      have hk : k = 2 ∨ k = 3 ∨ k = 4 ∨ k = 5 := by omega
      rcases hk with rfl | rfl | rfl | rfl <;> rfl
    · rw [hreset, BitVec.getLsbD_zero]

end Sys2Proof.Machine

/-! The turns of the driver's calls (42_driver.md R102 to R105), on a listed turn of the host. -/

namespace Sys2Proof.Machine

/-- A driver call is the host's step. -/
theorem step_call {s u : State} {c : DriverCall} {ts : List Turn} {rest : List HostOp} (hturn : s.turns = .host :: ts)
    (hop : s.program = .call c :: rest) (h : callTurn uartHandle c { s with turns := ts, program := rest } = .next u) :
    step s = .next u :=
  (step_host_op hturn hop).trans h

/-- The state once a poll has been made (40_register_access.md R73), with a schedule and a program still to come. -/
def polledState (s : State) (ts : List Turn) (ops : List HostOp) : State :=
  { afterPoll (returnWord (stateWord s) s) with turns := ts, program := ops }

/-- A poll returns the two buffers' flags and leaves the block alone but for the poll. -/
theorem polledState_frame (s : State) (ts : List Turn) (ops : List HostOp) :
    (polledState s ts ops).poll = .fresh ∧ SameSettings s (polledState s ts ops) ∧
      SameTransmitSide s (polledState s ts ops) ∧ SameReceiveSide s (polledState s ts ops) ∧
      (polledState s ts ops).isr = s.isr ∧ (polledState s ts ops).faults = s.faults ∧
      (polledState s ts ops).refused = s.refused ∧ (polledState s ts ops).returns = s.returns ∧
      (polledState s ts ops).turns = ts ∧ (polledState s ts ops).program = ops := by
  simp [polledState, SameSettings, SameTransmitSide, SameReceiveSide]

theorem polledState_txBit (s : State) (ts : List Turn) (ops : List HostOp) :
    (polledState s ts ops).rdata.getLsbD 0 = s.txFull := stateWord_getLsbD s 0

theorem polledState_rxBit (s : State) (ts : List Turn) (ops : List HostOp) :
    (polledState s ts ops).rdata.getLsbD 1 = s.rxFull := stateWord_getLsbD s 1

section Turns

variable {s : State} {ts : List Turn} {rest : List HostOp} (hturn : s.turns = .host :: ts)

include hturn

theorem step_waitTxReady (hop : s.program = .call .waitTxReady :: rest) :
    step s = .next (polledState s ts ((if s.txFull = true then [.call .waitTxReady] else []) ++ rest)) :=
  step_call hturn hop (callTurn_waitTxReady _)

theorem step_waitRxReady (hop : s.program = .call .waitRxReady :: rest) :
    step s = .next (polledState s ts ((if s.rxFull = true then [] else [.call .waitRxReady]) ++ rest)) :=
  step_call hturn hop (callTurn_waitRxReady _)

theorem step_putChar {c : Byte} (hop : s.program = .call (.putChar c) :: rest) :
    step s =
      .next
        (polledState s ts
          ((if s.txFull = true then .waitTxReady :: afterFirstWait c else afterFirstWait c).map .call ++ rest)) :=
  step_call hturn hop (callTurn_putChar c _)

/-- The first turn of a `PUTCHAR` that finds the transmit buffer empty. -/
theorem step_putChar_of_empty {c : Byte} (hop : s.program = .call (.putChar c) :: rest) (hempty : s.txFull = false) :
    step s = .next (polledState s ts ((afterFirstWait c).map .call ++ rest)) := by
  rw [step_putChar hturn hop, if_neg (by simp [hempty])]

theorem step_getChar (hop : s.program = .call .getChar :: rest) :
    step s =
      .next
        (polledState s ts
          ((if s.rxFull = true then [.receiveByte] else [.waitRxReady, .receiveByte]).map .call ++ rest)) :=
  step_call hturn hop (callTurn_getChar _)

/-- The write that ends a `PUTCHAR`, into the empty buffer. -/
theorem step_sendByte {c : Byte} {returns : Bool} (hop : s.program = .call (.sendByte c returns) :: rest)
    (hempty : s.txFull = false) :
    ∃ u, step s = .next u ∧ u.txFull = true ∧ u.txByte = c ∧ u.txOvf = s.txOvf ∧ u.wireOut = s.wireOut ∧
      SameSettings s u ∧ u.draws = s.draws ∧ u.faults = s.faults ++ hazardOf s.poll ∧ u.turns = ts ∧ u.program = rest ∧
      u.returns = if returns = true then s.returns ++ [c.setWidth 32] else s.returns := by
  have hexec := ((exec_wrData_cases (c.setWidth 32) { s with turns := ts, program := rest }).resolve_right
    fun hfull => by simp [hempty] at hfull).2
  refine ⟨_, step_call hturn hop (callTurn_sendByte returns hexec), ?_⟩
  have hbyte : dataBits (c.setWidth 32) = c := dataBits_dataWord c
  cases returns <;> simp [hbyte, SameSettings]

/-- The read of a `GETCHAR` whose byte has been received. -/
theorem step_receiveByte {b : Byte} (hop : s.program = .call .receiveByte :: rest) (hbyte : s.rxByte = some b) :
    ∃ u, step s = .next u ∧ u.rdata = b.setWidth 32 ∧ u.rxFull = false ∧ u.faults = s.faults ++ hazardOf s.poll ∧
      u.turns = ts ∧ u.returns = s.returns ∧
      u.program = .call (.putChar (if b = 0x0D#8 then 0x0A#8 else b)) :: rest := by
  refine ⟨_, step_call hturn hop (callTurn_receiveByte rfl), ?_⟩
  simp [receivedByte, hbyte, dataWord, carriageReturnToLineFeed]

end Turns

/-- The write that ends a `PUTCHAR`, right after the poll that found the buffer empty: it records no hazard. -/
theorem step_sendByte_of_polled {s : State} (c : Byte) (returns : Bool) (ts : List Turn) (rest : List HostOp)
    (hempty : s.txFull = false) :
    ∃ u, step (polledState s (.host :: ts) (.call (.sendByte c returns) :: rest)) = .next u ∧ u.txFull = true ∧
      u.txByte = c ∧ u.txOvf = s.txOvf ∧ u.wireOut = s.wireOut ∧ SameSettings s u ∧ u.draws = s.draws ∧
      u.faults = s.faults ∧ u.turns = ts ∧ u.program = rest ∧
      u.returns = if returns = true then s.returns ++ [c.setWidth 32] else s.returns := by
  obtain ⟨u, hu, hfull, hbyte, hovf, hwire, hset, hdraws, hfaults, hhost⟩ :=
    step_sendByte (s := polledState s (.host :: ts) (.call (.sendByte c returns) :: rest)) rfl rfl hempty
  exact ⟨u, hu, hfull, hbyte, hovf, hwire, hset, hdraws, hfaults.trans (List.append_nil _), hhost⟩

/-- The transmitter's listed turn, enabled (41_line_engines.md R86, R92). -/
theorem step_transmitter {s : State} {ts : List Turn} (hturn : s.turns = .transmitter :: ts)
    (hen : s.control.getLsbD 0 = true) (hfull : s.txFull = true) :
    ∃ t, step s = .next t ∧
      t.wireOut = s.wireOut ++ [if baudValid s.bauddiv = true then s.txByte else Config.freeByte s.draws] ∧
      t.txFull = false ∧ t.faults = s.faults ∧ t.turns = ts ∧ t.program = s.program ∧ t.returns = s.returns := by
  refine ⟨_, step_of_listed_turn hturn, ?_⟩
  rw [txStep_of_enabled (s := { s with turns := ts }) hen hfull]
  simp [lineByte, cond_eq_ite]

/-- Settles O52: a wait's turn is a poll, and leaves the wait unless its bit is as awaited. -/
theorem waitsSpinUntilTheirStatusBit : Obligations.WaitsSpinUntilTheirStatusBit := by
  refine fun s ts rest hturn => ⟨fun hop => ?_, fun hop => ?_⟩
  · refine ⟨_, step_waitTxReady hturn hop, rfl, polledState_txBit _ _ _, ?_⟩
    cases s.txFull <;> simp [polledState, hop]
  · refine ⟨_, step_waitRxReady hturn hop, rfl, polledState_rxBit _ _ _, ?_⟩
    cases s.rxFull <;> simp [polledState, hop]

/-- Settles O53: the poll's turn, then the write's. -/
theorem putCharBuffersAndReturnsTheByte : Obligations.PutCharBuffersAndReturnsTheByte := by
  intro s c ts rest hc hempty hturn hop
  have hpoll := step_putChar_of_empty hturn hop hempty
  rw [afterFirstWait, if_neg hc] at hpoll
  obtain ⟨u, hu, hfull, hbyte, hovf, -, -, -, hfaults, -, hprog, hreturns⟩ := step_sendByte_of_polled c true ts rest hempty
  exact ⟨_, u, hpoll, hu, (polledState_txBit _ _ _).trans hempty, hfull, hbyte, hovf, hreturns, hfaults, hprog⟩

/-- Settles O54: the five turns in order, the transmitter's between the two bytes. -/
theorem putCharPrecedesLineFeedByCarriageReturn : Obligations.PutCharPrecedesLineFeedByCarriageReturn := by
  intro s ts rest hempty hen hturn hop
  have ht1 := step_putChar_of_empty hturn hop hempty
  obtain ⟨t2, ht2, hfull2, hbyte2, -, hwire2, ⟨hcontrol2, hdivisor2⟩, hdraws2, hfaults2, hturns2, hprog2, hreturns2⟩ :=
    step_sendByte_of_polled 0x0D#8 false (.transmitter :: .host :: .host :: ts)
      (.call .waitTxReady :: .call (.sendByte 0x0A#8 true) :: rest) hempty
  obtain ⟨t3, ht3, hwire3, hempty3, hfaults3, hturns3, hprog3, hreturns3⟩ :=
    step_transmitter hturns2 (hcontrol2 ▸ hen) hfull2
  have ht4 := step_waitTxReady hturns3 (hprog3.trans hprog2)
  rw [if_neg (by simp [hempty3])] at ht4
  obtain ⟨u, hu, hfull, hbyte, -, hwire, -, -, hfaults, -, hprog, hreturns⟩ :=
    step_sendByte_of_polled 0x0A#8 true ts rest hempty3
  refine ⟨_, t2, t3, _, u, ht1, ht2, ht3, ht4, hu, ?_, hfull, hbyte, ?_, ?_, hprog⟩
  · rw [hwire, hwire3, hwire2, hdivisor2, hbyte2, hdraws2]
  · rw [hreturns, hreturns3, hreturns2]
    rfl
  · rw [hfaults, hfaults3, hfaults2]

/-- Settles O55: the poll's turn, then the read's. -/
theorem getCharTranslatesAndEchoes : Obligations.GetCharTranslatesAndEchoes := by
  intro s b ts rest hfull hbyte hturn hop
  have hpoll := step_getChar hturn hop
  rw [if_pos hfull] at hpoll
  obtain ⟨u, hu, hrdata, hempty, hfaults, -, -, hprog⟩ :=
    step_receiveByte (s := polledState s (.host :: ts) (.call .receiveByte :: rest)) rfl rfl hbyte
  exact ⟨_, u, hpoll, hu, (polledState_rxBit _ _ _).trans hfull, hrdata, hempty, hfaults.trans (List.append_nil _), hprog⟩

/-- What a `PUTCHAR` whose first poll failed leaves, as host operations (42_driver.md R102). -/
theorem map_call_wait_afterFirstWait (c : Byte) :
    (DriverCall.waitTxReady :: afterFirstWait c).map HostOp.call =
      if c = 0x0A#8 then
        [.call .waitTxReady, .call (.sendByte 0x0D#8 false), .call .waitTxReady, .call (.sendByte 0x0A#8 true)]
      else [.call .waitTxReady, .call (.sendByte c true)] := by
  unfold afterFirstWait
  split
  next hc => simp [hc]
  next => rfl

/-- Settles O60: a failed first poll leaves the wait and the whole call; then the accesses of the call. -/
theorem callsWaitForTheirStatusBit : Obligations.CallsWaitForTheirStatusBit := by
  refine fun s ts rest hturn => ⟨fun c hop hfull => ?_, fun hop hempty => ?_, fun c returns hop hempty => ?_,
    fun b hop hbyte => ?_⟩
  · have hpoll := step_putChar hturn hop
    rw [if_pos hfull, map_call_wait_afterFirstWait] at hpoll
    exact ⟨_, hpoll, (polledState_txBit _ _ _).trans hfull, polledState_frame s ts _⟩
  · have hpoll := step_getChar hturn hop
    rw [if_neg (by simp [hempty])] at hpoll
    exact ⟨_, hpoll, (polledState_rxBit _ _ _).trans hempty, polledState_frame s ts _⟩
  · obtain ⟨u, hu, hfull, hbyte, -, -, -, -, -, hturns, hprog, hreturns⟩ := step_sendByte hturn hop hempty
    exact ⟨u, hu, hfull, hbyte, hturns, hprog, hreturns⟩
  · obtain ⟨u, hu, hrdata, hempty, -, hturns, hreturns, hprog⟩ := step_receiveByte hturn hop hbyte
    exact ⟨u, hu, hrdata, hempty, hturns, hreturns, hprog⟩

end Sys2Proof.Machine

/-! Fairness of the transmitter (41_line_engines.md R91). -/

namespace Sys2Proof.Machine

/-- Once it has moved, the transmitter is owed nothing. -/
theorem not_transmitterOwed_of_transmitter {s t : State} (hturn : nextTurn s = .transmitter) (h : step s = .next t) :
    ¬ TransmitterOwed t := by
  cases (step_of_transmitter hturn).symm.trans h
  rintro ⟨hen, hfull, -⟩
  rcases txStep_enabled_or_disabled (turnTaken s) with ⟨hen', hfull'⟩ | hdis
  · rw [txStep_of_enabled hen' hfull'] at hfull
    exact absurd hfull (by simp)
  · rw [txStep_of_disabled hdis] at hen hfull
    rcases hdis with hdis | hempty
    · exact Bool.false_ne_true (hdis.symm.trans hen)
    · exact Bool.false_ne_true (hempty.symm.trans hfull)

/-- Settles O58: owed for ever, the transmitter would move by fairness, and then not be owed. -/
theorem fairTransmitterIsNotOwedForEver : Obligations.FairTransmitterIsNotOwedForEver := by
  intro run hrun hfair n
  by_contra hnever
  have howed : ∀ m, n ≤ m → TransmitterOwed (run m) := fun m hm => by
    by_contra hnot
    exact hnever ⟨m, hm, hnot⟩
  obtain ⟨m, hm, hturn⟩ := hfair n howed
  exact not_transmitterOwed_of_transmitter hturn (hrun m) (howed (m + 1) (Nat.le_succ_of_le hm))

end Sys2Proof.Machine

/-! The driver on a simulated block (42_driver.md R98; the fixture of 90_conflicts.md C2). -/

namespace Sys2Proof.Machine

/-- The words a `PUTCHAR` writes to `data` (42_driver.md R102). -/
def putCharWords (c : Byte) : List Word := if c = 0x0A#8 then [0x0D#32, 0x0A#32] else [c.setWidth 32]

/-- The turns a `PUTCHAR` takes on a block that is always ready: a poll and a write for each word. -/
def putCharTurns (c : Byte) : Nat := if c = 0x0A#8 then 4 else 2

theorem driverTurn_recordingBlock_putChar (base : Word) (c : Byte) (log : List Word) :
    driverTurn (recordingBlock base) (.putChar c) log = .next (log, .continues (afterFirstWait c)) := by
  simp [driverTurn, pollTxReady, recordingBlock, thenLeave]

theorem driverTurn_recordingBlock_waitTxReady (base : Word) (log : List Word) :
    driverTurn (recordingBlock base) .waitTxReady log = .next (log, .continues []) := by
  simp [driverTurn, pollTxReady, recordingBlock, thenLeave]

theorem driverTurn_recordingBlock_sendByte (base : Word) (c : Byte) (returns : Bool) (log : List Word) :
    driverTurn (recordingBlock base) (.sendByte c returns) log =
      .next (log ++ [c.setWidth 32], .ends (if returns = true then some c else none)) := by
  simp [driverTurn, driverSendByte, recordingBlock, thenLeave]

/-- A turn of the driver that answers a next state comes before the turns after it. -/
theorem driverRun_cons {σ φ ρ : Type} {block : RegisterBlock σ φ ρ} {c : DriverCall} {s t : σ} {rest : CallRest}
    (h : driverTurn block c s = .next (t, rest)) {n : Nat} {calls : List DriverCall} {o : DriverOutcome σ}
    (ho : driverRun block n (rest.left ++ calls) t = .next o) :
    driverRun block (n + 1) (c :: calls) s = .next (o.after rest) := by
  rw [driverRun, h]
  simp only [ho]

/-- A `PUTCHAR` on the recording block writes its words and returns its byte. -/
theorem driverRun_recordingBlock_putChar {base : Word} (c : Byte) {calls : List DriverCall} {log : List Word} {n : Nat}
    {o : DriverOutcome (List Word)} (ho : driverRun (recordingBlock base) n calls (log ++ putCharWords c) = .next o) :
    driverRun (recordingBlock base) (n + putCharTurns c) (.putChar c :: calls) log =
      .next { o with returned := c :: o.returned } := by
  have hpoll := driverTurn_recordingBlock_putChar base c log
  by_cases hc : c = 0x0A#8
  · subst hc
    rw [putCharWords, if_pos rfl] at ho
    have hfeed := driverRun_cons (calls := calls)
      (driverTurn_recordingBlock_sendByte base 0x0A#8 true (log ++ [0x0D#32])) (by rw [List.append_assoc]; exact ho)
    have hwait := driverRun_cons (driverTurn_recordingBlock_waitTxReady base _) hfeed
    have hreturn := driverRun_cons (driverTurn_recordingBlock_sendByte base 0x0D#8 false log) hwait
    exact driverRun_cons hpoll hreturn
  · rw [putCharWords, if_neg hc] at ho
    rw [afterFirstWait, if_neg hc] at hpoll
    rw [putCharTurns, if_neg hc]
    have hsend := driverRun_cons (calls := calls) (driverTurn_recordingBlock_sendByte base c true log) ho
    exact driverRun_cons hpoll hsend

theorem putCharTurns_le (c : Byte) : putCharTurns c ≤ 4 := by
  unfold putCharTurns
  split <;> decide

/-- Settles O59, by induction on the bytes. -/
theorem putCharsDriveASimulatedBlock : Obligations.PutCharsDriveASimulatedBlock := by
  intro base bytes
  induction bytes with
  | nil =>
    intro log turns _
    cases turns <;> simp [driverRun]
  | cons c bytes ih =>
    intro log turns hturns
    rw [List.length_cons] at hturns
    have hcall := putCharTurns_le c
    obtain ⟨n, rfl⟩ := Nat.exists_eq_add_of_le' (show putCharTurns c ≤ turns by omega)
    have hrest := ih (log ++ putCharWords c) n (by omega)
    rw [List.map_cons, driverRun_recordingBlock_putChar c hrest, List.flatMap_cons, ← List.append_assoc]
    rfl

end Sys2Proof.Machine
